-- ==== Sys2Proof/Word.lean ====
section
/-! DEFINITION. The words of SRNG-DP: bytes, 32-bit and 64-bit words, command words, and the group of four
state words of an xor-shift-rotate engine. Every value of the block is unsigned (00_scope.md R9) and `BitVec`'s
addition and multiplication wrap modulo `2^N` as 00_scope.md R10 asks. -/

namespace Sys2Proof

/-- A seed byte or an entropy byte. -/
abbrev Byte := BitVec 8

/-- A 32-bit word (00_scope.md R10). -/
abbrev Word32 := BitVec 32

/-- A 64-bit word (00_scope.md R10). -/
abbrev Word64 := BitVec 64

/-- A command word (30_encoding.md R55). -/
abbrev CmdWord := BitVec 16

/-- The four state words `s0`, `s1`, `s2`, `s3` of an xor-shift-rotate engine (10_state.md R22, R24). -/
structure Quad (w : Nat) where
  s0 : BitVec w
  s1 : BitVec w
  s2 : BitVec w
  s3 : BitVec w
  deriving DecidableEq, Repr

end Sys2Proof
end

