-- ==== Sys2Proof/Syntax.lean ====
section
/-! DEFINITION. The commands of SRNG-DP: the fifteen rows of `spec/opcode_table.json` as one inductive, the engine
and the operation each names (30_encoding.md R57, R58), and the fields of a command word (R55). -/

namespace Sys2Proof

/-- The engine a command addresses (30_encoding.md R57). -/
inductive Engine where
  | pcg | x256 | x128
  deriving DecidableEq, Repr

/-- The operation of a command (30_encoding.md R58). -/
inductive Operation where
  | entropy | seedStart | seedByte | seedEnd | next
  deriving DecidableEq, Repr

/-- The fifteen commands (30_encoding.md R61). The only operand is the seed byte of format B (R59). -/
inductive Instr where
  | pcgEntropy
  | pcgSeedStart
  | pcgSeedByte (b : Byte)
  | pcgSeedEnd
  | pcgNext
  | x256Entropy
  | x256SeedStart
  | x256SeedByte (b : Byte)
  | x256SeedEnd
  | x256Next
  | x128Entropy
  | x128SeedStart
  | x128SeedByte (b : Byte)
  | x128SeedEnd
  | x128Next
  deriving DecidableEq, Repr

/-- The engine of a command. -/
def Instr.engine : Instr → Engine
  | .pcgEntropy | .pcgSeedStart | .pcgSeedByte _ | .pcgSeedEnd | .pcgNext => .pcg
  | .x256Entropy | .x256SeedStart | .x256SeedByte _ | .x256SeedEnd | .x256Next => .x256
  | .x128Entropy | .x128SeedStart | .x128SeedByte _ | .x128SeedEnd | .x128Next => .x128

/-- The operation of a command. -/
def Instr.operation : Instr → Operation
  | .pcgEntropy | .x256Entropy | .x128Entropy => .entropy
  | .pcgSeedStart | .x256SeedStart | .x128SeedStart => .seedStart
  | .pcgSeedByte _ | .x256SeedByte _ | .x128SeedByte _ => .seedByte
  | .pcgSeedEnd | .x256SeedEnd | .x128SeedEnd => .seedEnd
  | .pcgNext | .x256Next | .x128Next => .next

/-- The fields of a command word (30_encoding.md R55), whatever they hold. -/
structure CommandFields where
  rsv : BitVec 3
  unit : BitVec 2
  op : BitVec 3
  imm8 : Byte
  deriving DecidableEq, Repr

end Sys2Proof
end

