-- ==== Sys2Proof/WellFormed.lean ====
section
/-! DEFINITION. When the fields of a word make a command: the four conditions of 30_encoding.md R65, one check each.
An `Instr` needs no check of its own: its only operand is a `BitVec 8`, so it is 0 to 255 by its type (R59). -/

namespace Sys2Proof

/-- 30_encoding.md R65 (1): the reserved field is `000`. -/
def CommandFields.rsvOk (f : CommandFields) : Bool := f.rsv == 0b000#3

/-- 30_encoding.md R65 (2): the unit is not the reserved `11`. -/
def CommandFields.unitOk (f : CommandFields) : Bool := f.unit != 0b11#2

/-- 30_encoding.md R65 (3): the operation is none of `000`, `110`, `111`. -/
def CommandFields.opOk (f : CommandFields) : Bool :=
  f.op != 0b000#3 && f.op != 0b110#3 && f.op != 0b111#3

/-- 30_encoding.md R65 (4): only format B (`op = 011`) carries a byte. -/
def CommandFields.immOk (f : CommandFields) : Bool := f.op == 0b011#3 || f.imm8 == 0x00#8

/-- The fields are those of a command (30_encoding.md R65). -/
def CommandFields.wellFormed (f : CommandFields) : Bool :=
  f.rsvOk && f.unitOk && f.opOk && f.immOk

end Sys2Proof
end

