-- ==== Sys2Proof/Decode.lean ====
section
/-! DEFINITION. The decoder of command words, total and refusing by name (30_encoding.md R65), the encoder written from
the same tables (R55 to R58, R61), and the host's entry `decodeTableWord`. -/

namespace Sys2Proof

/-- Why a word is no command, in the order of 30_encoding.md R65. All four end in the same fault (R60). -/
inductive IllegalWord where
  | reservedField
  | reservedUnit
  | reservedOperation
  | operandNotZero
  deriving DecidableEq, Repr

/-- What decoding a word answers. -/
inductive Decoded where
  | command (i : Instr)
  | illegal (why : IllegalWord)
  deriving DecidableEq, Repr

/-- The fields of a word (30_encoding.md R55). -/
def CommandFields.ofWord (w : CmdWord) : CommandFields where
  rsv := w.extractLsb' 13 3
  unit := w.extractLsb' 11 2
  op := w.extractLsb' 8 3
  imm8 := w.extractLsb' 0 8

/-- The word of given fields, `rsv` in the most significant bits (30_encoding.md R55). -/
def CommandFields.toWord (f : CommandFields) : CmdWord := f.rsv ++ f.unit ++ f.op ++ f.imm8

/-- The `unit` field (30_encoding.md R57); `11` is reserved. -/
def engineOf (unit : BitVec 2) : Option Engine :=
  if unit = 0b00#2 then some .pcg
  else if unit = 0b01#2 then some .x256
  else if unit = 0b10#2 then some .x128
  else none

/-- The `op` field (30_encoding.md R58); `000`, `110`, `111` are reserved. -/
def operationOf (op : BitVec 3) : Option Operation :=
  if op = 0b001#3 then some .entropy
  else if op = 0b010#3 then some .seedStart
  else if op = 0b011#3 then some .seedByte
  else if op = 0b100#3 then some .seedEnd
  else if op = 0b101#3 then some .next
  else none

/-- The row of 30_encoding.md R61 for an engine and an operation; the byte is used by format B alone. -/
def instrOf (e : Engine) (o : Operation) (b : Byte) : Instr :=
  match e, o with
  | .pcg, .entropy => .pcgEntropy
  | .pcg, .seedStart => .pcgSeedStart
  | .pcg, .seedByte => .pcgSeedByte b
  | .pcg, .seedEnd => .pcgSeedEnd
  | .pcg, .next => .pcgNext
  | .x256, .entropy => .x256Entropy
  | .x256, .seedStart => .x256SeedStart
  | .x256, .seedByte => .x256SeedByte b
  | .x256, .seedEnd => .x256SeedEnd
  | .x256, .next => .x256Next
  | .x128, .entropy => .x128Entropy
  | .x128, .seedStart => .x128SeedStart
  | .x128, .seedByte => .x128SeedByte b
  | .x128, .seedEnd => .x128SeedEnd
  | .x128, .next => .x128Next

/-- Decoding of fields, in the order of 30_encoding.md R65. -/
def decodeFields (f : CommandFields) : Decoded :=
  if f.rsv ≠ 0b000#3 then .illegal .reservedField
  else match engineOf f.unit with
    | none => .illegal .reservedUnit
    | some e => match operationOf f.op with
      | none => .illegal .reservedOperation
      | some o =>
        if o ≠ .seedByte ∧ f.imm8 ≠ 0x00#8 then .illegal .operandNotZero
        else .command (instrOf e o f.imm8)

/-- Decoding of a word: total, and a function of the word alone (30_encoding.md R65). -/
def decode (w : CmdWord) : Decoded := decodeFields (.ofWord w)

/-- The `unit` code of an engine (30_encoding.md R57). -/
def Engine.code : Engine → BitVec 2
  | .pcg => 0b00#2
  | .x256 => 0b01#2
  | .x128 => 0b10#2

/-- The `op` code of an operation (30_encoding.md R58). -/
def Operation.code : Operation → BitVec 3
  | .entropy => 0b001#3
  | .seedStart => 0b010#3
  | .seedByte => 0b011#3
  | .seedEnd => 0b100#3
  | .next => 0b101#3

/-- The `imm8` field of a command: the byte in format B, `0x00` in format N (30_encoding.md R56). -/
def Instr.imm8 : Instr → Byte
  | .pcgSeedByte b | .x256SeedByte b | .x128SeedByte b => b
  | .pcgEntropy | .pcgSeedStart | .pcgSeedEnd | .pcgNext
  | .x256Entropy | .x256SeedStart | .x256SeedEnd | .x256Next
  | .x128Entropy | .x128SeedStart | .x128SeedEnd | .x128Next => 0x00#8

/-- The fields of a command's word (30_encoding.md R55, R56). -/
def Instr.fields (i : Instr) : CommandFields where
  rsv := 0b000#3
  unit := i.engine.code
  op := i.operation.code
  imm8 := i.imm8

/-- The word of a command (30_encoding.md R61). -/
def encode (i : Instr) : CmdWord := i.fields.toWord

/-- The instruction the decoder reads from a row's bits as the opcode table numbers them. A command is one 16-bit word
(30_encoding.md R55, R63): bits above `nbits` are 0, and more than 16 bits are no command. -/
def decodeTableWord (nbits w : Nat) : Option Instr :=
  if nbits ≤ 16 then
    match decode (BitVec.ofNat 16 (w % 2 ^ nbits)) with
    | .command i => some i
    | .illegal _ => none
  else none

end Sys2Proof
end

