-- ==== Sys2Proof/Machine/Constants.lean ====
section
/-! DEFINITION. The wired constants of 00_scope.md R7, digit for digit; no command can change them
(10_state.md R32). -/

namespace Sys2Proof.Machine

/-- `M`, the PCG multiplier (41_pcg.md R100). -/
def pcgM : Word64 := 0x5851f42d4c957f2d#64

/-- `C`, the PCG increment (41_pcg.md R100). -/
def pcgC : Word64 := 0x14057b7ef767814f#64

/-- `K0`, the PCG initial constant (41_pcg.md R100). -/
def pcgK0 : Word64 := 0xcafef00dd15ea5e5#64

/-- `FNV_BASIS` (40_seed_and_shared_functions.md R83). -/
def fnvBasis : Word64 := 0xcbf29ce484222325#64

/-- `FNV_PRIME` (40_seed_and_shared_functions.md R82). -/
def fnvPrime : Word64 := 0x100000001b3#64

/-- `GAMMA`, the SplitMix64 increment (40_seed_and_shared_functions.md R85). -/
def gamma : Word64 := 0x9e3779b97f4a7c15#64

/-- `MIX1` (40_seed_and_shared_functions.md R84). -/
def mix1 : Word64 := 0xbf58476d1ce4e5b9#64

/-- `MIX2` (40_seed_and_shared_functions.md R84). -/
def mix2 : Word64 := 0x94d049bb133111eb#64

/-- The binary64 exponent pattern of magnitude 1.0 (42_xsr256.md R121). -/
def exponentOne : Word64 := 0x3ff0000000000000#64

end Sys2Proof.Machine
end

