-- ==== Sys2Proof/Machine/Operands.lean ====
section
/-! DEFINITION. Operand forms and width changes: rotations (00_scope.md R12), little-endian assembly of bytes
(00_scope.md R13, 20_memory.md R41, R44), the two halves of a 64-bit word (R13, R42), zero padding to whole chunks
(41_pcg.md R102). -/

namespace Sys2Proof.Machine

/-- `rotl_N(v, k)` for `0 <= k < N` (00_scope.md R12); rotation by 0 is stated apart so that no shift is by the full
width. PRESUMED formula, log 11. -/
def rotl {n : Nat} (v : BitVec n) (k : Nat) : BitVec n :=
  if k = 0 then v else (v <<< k) ||| (v >>> (n - k))

/-- `rotr_N(v, k)` for `0 <= k < N` (00_scope.md R12). PRESUMED formula, log 11. -/
def rotr {n : Nat} (v : BitVec n) (k : Nat) : BitVec n :=
  if k = 0 then v else (v >>> k) ||| (v <<< (n - k))

/-- A seed byte widened to 64 bits with zeros (30_encoding.md R59). -/
def zext64 (b : Byte) : Word64 := b.setWidth 64

/-- The number whose little-endian bytes are given, first byte least significant (00_scope.md R13). -/
def leNat : List Byte → Nat
  | [] => 0
  | b :: bs => b.toNat + 256 * leNat bs

/-- `LE64` (00_scope.md R13). -/
@[irreducible] def le64 (e : List Byte) : Word64 := BitVec.ofNat 64 (leNat e)

/-- `LE32` (00_scope.md R13). -/
@[irreducible] def le32 (e : List Byte) : Word32 := BitVec.ofNat 32 (leNat e)

/-- Bytes `off` to `off + n - 1` of a byte sequence. -/
def slice (e : List Byte) (off n : Nat) : List Byte := (e.drop off).take n

/-- `lo32(v) = v[31:0]` (00_scope.md R13). -/
def lo32 (v : Word64) : Word32 := v.extractLsb' 0 32

/-- `hi32(v) = v[63:32]` (00_scope.md R13). -/
def hi32 (v : Word64) : Word32 := v.extractLsb' 32 32

/-- `8 * ceil(n / 8)`, the least multiple of 8 that is at least `n` (41_pcg.md R102). -/
def paddedLength (n : Nat) : Nat := 8 * ((n + 7) / 8)

/-- A seed followed by zero bytes up to `paddedLength` (41_pcg.md R102). -/
def zeroPad (m : List Byte) : List Byte := m ++ List.replicate (paddedLength m.length - m.length) 0x00#8

/-- The four 64-bit words of 32 entropy bytes, little-endian (20_memory.md R44, 42_xsr256.md R123). -/
def quad64OfBytes (e : List Byte) : Quad 64 :=
  ⟨le64 (slice e 0 8), le64 (slice e 8 8), le64 (slice e 16 8), le64 (slice e 24 8)⟩

/-- The four 32-bit words of 16 entropy bytes, little-endian (20_memory.md R44, 43_xsr128.md R143). -/
def quad32OfBytes (e : List Byte) : Quad 32 :=
  ⟨le32 (slice e 0 4), le32 (slice e 4 4), le32 (slice e 8 4), le32 (slice e 12 4)⟩

end Sys2Proof.Machine
end

