-- ==== Sys2Proof/Config.lean ====
section
/-! DEFINITION. What an implementation fixes and what the spec leaves open: the two OPEN parameters of
00_scope.md R8 as a record, and the free values, each a constant without a body. -/

namespace Sys2Proof

/-- The two OPEN parameters (00_scope.md R8). A model takes them as arguments; here they stand in `State`, where no
step writes them. DESIGN CHOICE, log 7. -/
structure Params where
  /-- `XSR_SEED_PADDED`: `X256` and `X128` hash the seed zero-padded to whole 8-byte chunks
  (92_eei_decisions.md D11). -/
  xsrSeedPadded : Bool
  /-- `RESET_LOADS_DEFAULT`: reset leaves each engine as after `E.DEFAULT` (92_eei_decisions.md D8). -/
  resetLoadsDefault : Bool
  deriving DecidableEq, Repr

/-- The defaults of 00_scope.md R8. -/
def Params.default : Params := { xsrSeedPadded := false, resetLoadsDefault := false }

/-- An answer of the entropy source to one request (30_encoding.md R64). `silent` is the source that never
replies (60_exceptions.md R176, 93_implementation_defined.md U6). -/
inductive EntropyReply where
  | fail
  | bytes (e : List Byte)
  | silent
  deriving DecidableEq, Repr, Inhabited

/-- The registers that 10_state.md R34 leaves unspecified after reset, and the two counters of
92_eei_decisions.md D11. -/
inductive RegName where
  | pcgS | pcgAcc | pcgCnt
  | x256S0 | x256S1 | x256S2 | x256S3 | x256H | x256Cnt
  | x128S0 | x128S1 | x128S2 | x128S3 | x128H | x128Cnt
  deriving DecidableEq, Repr

/-- FREE VALUE: the entropy source's answer to a request for `n` bytes, the `k`-th request of the run
(10_state.md R35: "its bytes are free draws, and whether it fails is a free draw too"). Used where State lists no
answer. Log 2. -/
opaque Config.freeEntropyReply (n k : Nat) : EntropyReply

/-- FREE VALUE: what register `r` holds after the `k`-th reset asserted in a run (10_state.md R34: "unspecified
after reset"). Log 6. -/
opaque Config.freeResetValue (k : Nat) (r : RegName) : Word64

end Sys2Proof
end

