-- ==== Sys2Proof/Machine/State.lean ====
section
/-! DEFINITION. The state of SRNG-DP as plain data: the registers of the three engines (10_state.md R20 to R27), the
parameters, and the ports (what the host and the entropy source still send, and what the host has been given); the
reasons a step can stop; the state after reset (10_state.md R34). -/

namespace Sys2Proof.Machine

/-- The phase register of an engine, a three-constructor type (10_state.md R27). -/
inductive Phase where
  | idle | seeding | ready
  deriving DecidableEq, Repr

/-- The status of a response; codes `0x4` to `0xF` are never produced (60_exceptions.md R163,
93_implementation_defined.md U10). -/
inductive Status where
  | ok | illegalCmd | badPhase | entropyFail
  deriving DecidableEq, Repr

/-- The response to one command (30_encoding.md R62). -/
structure Response where
  status : Status
  num : Word64
  f64 : Word64
  deriving DecidableEq, Repr

/-- What the outside world does to the block: a command word at the command port, or the reset input
(30_encoding.md R55, 70_reset_and_hazards.md R180). -/
inductive Input where
  | command (w : CmdWord)
  | reset
  deriving DecidableEq, Repr

/-- The registers of the `PCG` engine (10_state.md R20, R21, R27). -/
structure PcgRegs where
  s : Word64
  acc : Word64
  cnt : BitVec 3
  ph : Phase
  deriving DecidableEq, Repr

/-- The registers of the `X256` engine (10_state.md R22, R23, R27). `cnt` is the byte counter that
92_eei_decisions.md D11 adds where `XSR_SEED_PADDED` is true; nothing reads or writes it otherwise. -/
structure X256Regs where
  st : Quad 64
  h : Word64
  cnt : BitVec 3
  ph : Phase
  deriving DecidableEq, Repr

/-- The registers of the `X128` engine (10_state.md R24, R25, R27). `h` is 64 bits wide; `cnt` as in `X256Regs`. -/
structure X128Regs where
  st : Quad 32
  h : Word64
  cnt : BitVec 3
  ph : Phase
  deriving DecidableEq, Repr

/-- The state. `pcg`, `x256`, `x128` are the block's registers; the other fields are the parameters, the ports and two
counters that number free values (log 1, 2, 3, 6, 7, 10). -/
structure State where
  pcg : PcgRegs
  x256 : X256Regs
  x128 : X128Regs
  /-- The OPEN parameters; no step writes them. -/
  params : Params
  /-- What the host will do, first at the head. -/
  inputs : List Input
  /-- The entropy source's answers to the next requests, first at the head. Past its end answers are free values. -/
  entropyReplies : List EntropyReply
  /-- The MODEL's own: how many requests have been made. -/
  entropyRequests : Nat
  /-- An `ENTROPY` command has made its request and no reply ever comes (60_exceptions.md R176). -/
  entropyPending : Bool
  /-- The responses given to the host, newest at the head (30_encoding.md R62). -/
  responses : List Response
  /-- The MODEL's own: how many resets the run has seen. -/
  resets : Nat
  deriving DecidableEq, Repr

/-- Why a step stops. -/
inductive Fault where
  /-- Raised by `step` (`acceptCommand`), never by an instruction's meaning: an `ENTROPY` command waits for an entropy
  source that never replies, and the block "accepts no further command" (60_exceptions.md R176; the treatment "stuck"
  of 93_implementation_defined.md U6). Only a reset goes on. SAFE: the run has no further step, as in the spec. -/
  | entropyNeverReplied
  deriving DecidableEq, Repr

/-- Why an instruction has no meaning. -/
inductive Refusal where
  /-- An arm of `exec` without a meaning. SAFE. No arm of this model raises it. -/
  | notModelled (mnemonic : String)
  deriving DecidableEq, Repr

/-- The machine right after hardware reset under the default parameters (10_state.md R34, 70_reset_and_hazards.md R180):
all phases `IDLE`, nothing at the ports. Every other register is unspecified there; the model names all ones for each
(the spec forbids zero, 93_implementation_defined.md U3). DESIGN CHOICE, log 5. -/
def State.reset : State where
  pcg := { s := 0xffffffffffffffff#64, acc := 0xffffffffffffffff#64, cnt := 0b111#3, ph := .idle }
  x256 :=
    { st := ⟨0xffffffffffffffff#64, 0xffffffffffffffff#64, 0xffffffffffffffff#64, 0xffffffffffffffff#64⟩
      h := 0xffffffffffffffff#64, cnt := 0b111#3, ph := .idle }
  x128 :=
    { st := ⟨0xffffffff#32, 0xffffffff#32, 0xffffffff#32, 0xffffffff#32⟩
      h := 0xffffffffffffffff#64, cnt := 0b111#3, ph := .idle }
  params := .default
  inputs := []
  entropyReplies := []
  entropyRequests := 0
  entropyPending := false
  responses := []
  resets := 0

end Sys2Proof.Machine
end

