-- ==== Sys2Proof/Machine/Flags.lean ====
section
/-! DEFINITION. The block has no flags and no condition codes (10_state.md R31). Its only status is the phase of each
engine and the status of a response: the legality table of 10_state.md R28 and the codes of 60_exceptions.md R163. -/

namespace Sys2Proof.Machine

/-- The phases in which an operation is accepted (10_state.md R28, 60_exceptions.md R165). -/
def legalIn : Operation → Phase → Bool
  | .entropy, _ => true
  | .seedStart, _ => true
  | .seedByte, ph => ph == .seeding
  | .seedEnd, ph => ph == .seeding
  | .next, ph => ph == .ready

/-- The phase after an operation that has taken effect (10_state.md R28). -/
def phaseAfter : Operation → Phase
  | .entropy => .ready
  | .seedStart => .seeding
  | .seedByte => .seeding
  | .seedEnd => .ready
  | .next => .ready

/-- The 4-bit status codes (60_exceptions.md R163). -/
def Status.code : Status → BitVec 4
  | .ok => 0x0#4
  | .illegalCmd => 0x1#4
  | .badPhase => 0x2#4
  | .entropyFail => 0x3#4

end Sys2Proof.Machine
end

