-- ==== Sys2Proof/Machine/Ops.lean ====
section
/-! DEFINITION. The operations every meaning is made of: giving a response, raising a fault, the phase check, the
entropy port, and taking the next input. A fault of this block is a response and nothing else (60_exceptions.md R162,
R168, R170): there is no trap entry and no return from one. -/

namespace Sys2Proof.Machine

/-- The response of a command that took effect and is no `NEXT` (30_encoding.md R62). -/
def okResponse : Response := { status := .ok, num := 0#64, f64 := 0#64 }

/-- The response of a faulting command (30_encoding.md R62, 60_exceptions.md R163). -/
def faultResponse (c : Status) : Response := { status := c, num := 0#64, f64 := 0#64 }

/-- One response is given to the host. -/
def respond (r : Response) (s : State) : State := { s with responses := r :: s.responses }

/-- `raise`: the command ends with a status and no register changes (00_scope.md R15, 60_exceptions.md R162, R168). -/
def raise (c : Status) (s : State) : State := respond (faultResponse c) s

/-- The registers of the `PCG` engine replaced. -/
def State.setPcg (s : State) (r : PcgRegs) : State := { s with pcg := r }

/-- The registers of the `X256` engine replaced. -/
def State.setX256 (s : State) (r : X256Regs) : State := { s with x256 := r }

/-- The registers of the `X128` engine replaced. -/
def State.setX128 (s : State) (r : X128Regs) : State := { s with x128 := r }

/-- A command takes effect where its phase allows it and raises `BAD_PHASE` elsewhere
(10_state.md R28, 60_exceptions.md R165). -/
def inPhase (o : Operation) (ph : Phase) (effect : State) (s : State) :
    Host.Outcome State Fault Refusal :=
  if legalIn o ph then .next effect else .next (raise .badPhase s)

/-- A reply as the block takes it: exactly `n` bytes, or `Fail` (30_encoding.md R64); a reply of another length is
`Fail` (91_not_in_source.md N21). DEDUCED for longer replies, log 4. -/
def ofLength (n : Nat) : EntropyReply → EntropyReply
  | .fail => .fail
  | .bytes e => if e.length = n then .bytes e else .fail
  | .silent => .silent

/-- The reply to `EntropyRead(n)`: the next listed answer, a free value where none is listed (30_encoding.md R64,
10_state.md R35). -/
def entropyReply (n : Nat) (s : State) : EntropyReply :=
  match s.entropyReplies with
  | r :: _ => ofLength n r
  | [] => ofLength n (Config.freeEntropyReply n s.entropyRequests)

/-- The state after the entropy port has made one request. -/
def takeReply (s : State) : State :=
  { s with entropyReplies := s.entropyReplies.tail, entropyRequests := s.entropyRequests + 1 }

/-- Construction from absent seed material (41_pcg.md R105, 42_xsr256.md R123, 43_xsr128.md R143): one request; on bytes
`load` writes the engine and the command responds `OK`; on `Fail` it raises `ENTROPY_FAIL` (60_exceptions.md R166);
without a reply it gives no response and the block waits (60_exceptions.md R176). -/
def constructFromEntropy (n : Nat) (load : List Byte → State → State) (s : State) :
    Host.Outcome State Fault Refusal :=
  .next <| match entropyReply n s with
    | .bytes e => respond okResponse (load e (takeReply s))
    | .fail => raise .entropyFail (takeReply s)
    | .silent => { takeReply s with entropyPending := true }

/-- The state with the remaining inputs replaced: the command port has taken one. -/
def State.setInputs (s : State) (l : List Input) : State := { s with inputs := l }

/-- A command is accepted unless an earlier one still waits (20_memory.md R46, 60_exceptions.md R176). -/
def acceptCommand (s : State) (run : Host.Outcome State Fault Refusal) :
    Host.Outcome State Fault Refusal :=
  if s.entropyPending then .fault .entropyNeverReplied else run

end Sys2Proof.Machine
end

