-- ==== Sys2Proof/Machine/Result.lean ====
section
/-! DEFINITION. The binary64 result (40_seed_and_shared_functions.md R86, R87): the pattern of `N / 2^P`, and the two conversions
between patterns and rationals, in which the rules about results are stated (00_scope.md R16). -/

namespace Sys2Proof.Machine

/-- `F64Frac(N, P)` (40_seed_and_shared_functions.md R87), for `P` 32 or 52 and `N < 2^P`. -/
@[irreducible] def f64Frac (N P : Nat) : Word64 :=
  if N = 0 then 0x0000000000000000#64
  else
    let k := N.log2
    let e := 1023 - P + k
    let f := (N - 2 ^ k) <<< (52 - k)
    BitVec.ofNat 64 ((e <<< 52) ||| f)

/-- The size of a finite pattern of exponent field `e` and mantissa field `f`: the formula of 40_seed_and_shared_functions.md R86
where `e` is not 0, and `f / 2^1074` where it is (zeros and subnormals). PRESUMED, log 13. -/
def f64Magnitude (e f : Nat) : ℚ := if e = 0 then f / 2 ^ 1074 else 2 ^ e / 2 ^ 1023 * (1 + f / 2 ^ 52)

/-- `F64Value(p)` (00_scope.md R16): the value of every finite pattern; `none` on the infinities and NaNs, exponent field 2047.
PRESUMED layout, log 13. -/
@[irreducible] def f64Value (p : Word64) : Option ℚ :=
  let e := (p.extractLsb' 52 11).toNat
  let magnitude := f64Magnitude e (p.extractLsb' 0 52).toNat
  if e = 2047 then none else some (if p.getLsbD 63 then -magnitude else magnitude)

/-- The 63 bits below the sign of the number of size `m * 2^-1074`: `m` itself while its leading one lies below bit 52, and the
leading one's index less 51 in the exponent field otherwise; `none` where that is not exact or too large. PRESUMED, log 13. -/
def f64Unsigned (m : Nat) : Option Nat :=
  if m < 2 ^ 52 then some m
  else
    let k := m.log2
    if m % 2 ^ (k - 52) = 0 ∧ k - 51 ≤ 2046 then
      some ((k - 51) * 2 ^ 52 + (m / 2 ^ (k - 52) - 2 ^ 52))
    else none

/-- `F64Bits(q)` (00_scope.md R16): the binary64 pattern of a rational that is exactly representable, `none` for every other. The
pattern of 0 is `+0.0` (40_seed_and_shared_functions.md R86, R90). PRESUMED layout, log 13. -/
@[irreducible] def f64Bits (q : ℚ) : Option Word64 :=
  let scaled : ℚ := |q| * 2 ^ 1074
  if scaled.den = 1 then
    (f64Unsigned scaled.num.natAbs).map fun n => BitVec.ofNat 64 (if q < 0 then 2 ^ 63 + n else n)
  else none

/-- The response of a `NEXT` that computed the integer `num`, of `P` random bits (30_encoding.md R62). -/
def nextResponse (num : Word64) (P : Nat) : Response :=
  { status := .ok, num := num, f64 := f64Frac num.toNat P }

end Sys2Proof.Machine
end

