-- ==== Sys2Proof/Machine/Pcg.lean ====
section
/-! DEFINITION. The `PCG` engine (41_pcg.md): its pure functions (R101 to R104), what each command does to its registers,
and the meanings of its five commands (R105 to R109). -/

namespace Sys2Proof.Machine

/-- `PcgAbsorb(s, c)` (41_pcg.md R101). -/
@[irreducible] def pcgAbsorb (s c : Word64) : Word64 := (s + c) * pcgM + pcgC

/-- Chunk `j` of a padded seed, little-endian (41_pcg.md R102). -/
def pcgChunk (p : List Byte) (j : Nat) : Word64 := le64 (slice p (8 * j) 8)

/-- `PcgSeed(m)` (41_pcg.md R102). -/
def pcgSeed (m : List Byte) : Word64 :=
  (List.range (paddedLength m.length / 8)).foldl (fun s j => pcgAbsorb s (pcgChunk (zeroPad m) j)) pcgK0

/-- `PcgLcg(s)` (41_pcg.md R103). -/
@[irreducible] def pcgLcg (s : Word64) : Word64 := s * pcgM + pcgC

/-- `PcgOut(old)` (41_pcg.md R104). -/
@[irreducible] def pcgOut (old : Word64) : Word32 :=
  let x := old ^^^ (old >>> 18)
  let xorshifted : Word32 := (x >>> 27).setWidth 32
  let rot := (old >>> 59).toNat
  rotr xorshifted rot

/-- The registers after entropy bytes are loaded (41_pcg.md R105); `acc` and `cnt` are not written. -/
@[irreducible] def pcgLoad (e : List Byte) (r : PcgRegs) : PcgRegs := { r with s := le64 e, ph := .ready }

/-- The registers after `PCG.SEED_START` (41_pcg.md R106). -/
@[irreducible] def pcgStart (_ : PcgRegs) : PcgRegs := { s := pcgK0, acc := 0#64, cnt := 0#3, ph := .seeding }

/-- The registers after a seed byte in phase `SEEDING` (41_pcg.md R107 steps 2 and 3). -/
@[irreducible] def pcgByte (b : Byte) (r : PcgRegs) : PcgRegs :=
  let a := r.acc ||| (zext64 b <<< (8 * r.cnt.toNat))
  if r.cnt = 7#3 then { r with s := pcgAbsorb r.s a, acc := 0#64, cnt := 0#3 }
  else { r with acc := a, cnt := r.cnt + 1#3 }

/-- The registers after `PCG.SEED_END` in phase `SEEDING` (41_pcg.md R108 steps 2 and 3). -/
@[irreducible] def pcgEnd (r : PcgRegs) : PcgRegs :=
  if r.cnt ≠ 0#3 then { s := pcgAbsorb r.s r.acc, acc := 0#64, cnt := 0#3, ph := .ready }
  else { r with ph := .ready }

/-- The registers after an output step (41_pcg.md R109 step 3). -/
@[irreducible] def pcgStep (r : PcgRegs) : PcgRegs := { r with s := pcgLcg r.s }

/-- The response of an output step from state `old` (41_pcg.md R109 steps 4 and 5). -/
@[irreducible] def pcgResponse (old : Word64) : Response := nextResponse ((pcgOut old).setWidth 64) 32

/-- `PCG.ENTROPY` (41_pcg.md R105). -/
def execPcgEntropy (s : State) : Host.Outcome State Fault Refusal :=
  constructFromEntropy 8 (fun e t => t.setPcg (pcgLoad e t.pcg)) s

/-- `PCG.SEED_START` (41_pcg.md R106). -/
def execPcgSeedStart (s : State) : Host.Outcome State Fault Refusal :=
  inPhase .seedStart s.pcg.ph (respond okResponse (s.setPcg (pcgStart s.pcg))) s

/-- `PCG.SEED_BYTE b` (41_pcg.md R107). -/
def execPcgSeedByte (b : Byte) (s : State) : Host.Outcome State Fault Refusal :=
  inPhase .seedByte s.pcg.ph (respond okResponse (s.setPcg (pcgByte b s.pcg))) s

/-- `PCG.SEED_END` (41_pcg.md R108). -/
def execPcgSeedEnd (s : State) : Host.Outcome State Fault Refusal :=
  inPhase .seedEnd s.pcg.ph (respond okResponse (s.setPcg (pcgEnd s.pcg))) s

/-- `PCG.NEXT` (41_pcg.md R109): the output is computed from the state before the update. -/
def execPcgNext (s : State) : Host.Outcome State Fault Refusal :=
  inPhase .next s.pcg.ph (respond (pcgResponse s.pcg.s) (s.setPcg (pcgStep s.pcg))) s

end Sys2Proof.Machine
end

