-- ==== Sys2Proof/Machine/SeedHash.lean ====
section
/-! DEFINITION. The seed functions the two xor-shift-rotate engines share: FNV-1a (40_seed_and_shared_functions.md R82,
R83) and SplitMix64 (R84, R85), with the padding of `XSR_SEED_PADDED` (92_eei_decisions.md D11). -/

namespace Sys2Proof.Machine

/-- `Fnv1aStep(h, b)` (40_seed_and_shared_functions.md R82): xor first, then multiply. -/
@[irreducible] def fnv1aStep (h : Word64) (b : Byte) : Word64 := (h ^^^ zext64 b) * fnvPrime

/-- `Fnv1a64(m)` (40_seed_and_shared_functions.md R83). -/
def fnv1a64 (m : List Byte) : Word64 := m.foldl fnv1aStep fnvBasis

/-- `Mix64(h)` (40_seed_and_shared_functions.md R84). The composition is general knowledge to the spec itself.
PRESUMED, log 12. -/
@[irreducible] def mix64 (h : Word64) : Word64 :=
  let z1 := (h ^^^ (h >>> 30)) * mix1
  let z2 := (z1 ^^^ (z1 >>> 27)) * mix2
  z2 ^^^ (z2 >>> 31)

/-- `SmNext(h)` (40_seed_and_shared_functions.md R85): the carried counter and the round's output. -/
def smNext (h : Word64) : Word64 × Word64 := (h + gamma, mix64 (h + gamma))

/-- `Fnv1aStep(h, 0)` applied `k` times. -/
def fnv1aZeros (k : Nat) (h : Word64) : Word64 := (List.replicate k 0x00#8).foldl fnv1aStep h

/-- What `E.SEED_END` does to the hash before expanding it: nothing, or, where `XSR_SEED_PADDED` is true,
`(8 - n mod 8) mod 8` zero bytes, `n mod 8` being the byte counter (92_eei_decisions.md D11). -/
def finishHash (padded : Bool) (cnt : BitVec 3) (h : Word64) : Word64 :=
  if padded then fnv1aZeros ((8 - cnt.toNat) % 8) h else h

/-- The byte counter after a command that sets or advances it; it exists only where `XSR_SEED_PADDED` is true
(92_eei_decisions.md D11). -/
def countByte (padded : Bool) (old new : BitVec 3) : BitVec 3 := if padded then new else old

/-- The seed bytes that are hashed (40_seed_and_shared_functions.md R83; padded under 92_eei_decisions.md D11). -/
def hashedSeed (padded : Bool) (m : List Byte) : List Byte := if padded then zeroPad m else m

end Sys2Proof.Machine
end

