-- ==== Sys2Proof/Machine/X128.lean ====
section
/-! DEFINITION. The `X128` engine (43_xsr128.md): its pure functions (R140 to R142), what each command does to its
registers, and the meanings of its five commands (R143 to R147). -/

namespace Sys2Proof.Machine

/-- The two SplitMix64 rounds from hash `h`, low word first: the state words and the counter that is left
(43_xsr128.md R140, R146; 20_memory.md R42). -/
@[irreducible] def x128Expand (h : Word64) : Quad 32 × Word64 :=
  let (h0, z0) := smNext h
  let (h1, z1) := smNext h0
  (⟨lo32 z0, hi32 z0, lo32 z1, hi32 z1⟩, h1)

/-- `X128Seed(m)` (43_xsr128.md R140). -/
def x128Seed (m : List Byte) : Quad 32 := (x128Expand (fnv1a64 m)).1

/-- `X128Out(s1)` (43_xsr128.md R141). -/
@[irreducible] def x128Out (s1 : Word32) : Word32 := rotl (s1 * 5#32) 7 * 9#32

/-- `X128Update` (43_xsr128.md R142): seven assignments in order. -/
@[irreducible] def x128Update (q : Quad 32) : Quad 32 :=
  let t := q.s1 <<< 9
  let s2 := q.s2 ^^^ q.s0
  let s3 := q.s3 ^^^ q.s1
  let s1 := q.s1 ^^^ s2
  let s0 := q.s0 ^^^ s3
  let s2 := s2 ^^^ t
  let s3 := rotl s3 11
  ⟨s0, s1, s2, s3⟩

/-- The registers after entropy bytes are loaded (43_xsr128.md R143); `h` is not written. -/
@[irreducible] def x128Load (e : List Byte) (r : X128Regs) : X128Regs := { r with st := quad32OfBytes e, ph := .ready }

/-- The registers after `X128.SEED_START` (43_xsr128.md R144; the counter, 92_eei_decisions.md D11). -/
@[irreducible] def x128Start (padded : Bool) (r : X128Regs) : X128Regs :=
  { r with h := fnvBasis, cnt := countByte padded r.cnt 0#3, ph := .seeding }

/-- The registers after a seed byte in phase `SEEDING` (43_xsr128.md R145; the counter, 92_eei_decisions.md D11). -/
@[irreducible] def x128Byte (padded : Bool) (b : Byte) (r : X128Regs) : X128Regs :=
  { r with h := fnv1aStep r.h b, cnt := countByte padded r.cnt (r.cnt + 1#3) }

/-- The registers after `X128.SEED_END` in phase `SEEDING` (43_xsr128.md R146; the padding, 92_eei_decisions.md D11).
The counter keeps its value, log 8. -/
@[irreducible] def x128End (padded : Bool) (r : X128Regs) : X128Regs :=
  let (st, h) := x128Expand (finishHash padded r.cnt r.h)
  { r with st := st, h := h, ph := .ready }

/-- The registers after an output step (43_xsr128.md R147 step 4). -/
@[irreducible] def x128Step (r : X128Regs) : X128Regs := { r with st := x128Update r.st }

/-- The response of an output step from the words `q` (43_xsr128.md R147 steps 3 and 5). -/
@[irreducible] def x128Response (q : Quad 32) : Response := nextResponse ((x128Out q.s1).setWidth 64) 32

/-- `X128.ENTROPY` (43_xsr128.md R143). -/
def execX128Entropy (s : State) : Host.Outcome State Fault Refusal :=
  constructFromEntropy 16 (fun e t => t.setX128 (x128Load e t.x128)) s

/-- `X128.SEED_START` (43_xsr128.md R144). -/
def execX128SeedStart (s : State) : Host.Outcome State Fault Refusal :=
  inPhase .seedStart s.x128.ph
    (respond okResponse (s.setX128 (x128Start s.params.xsrSeedPadded s.x128))) s

/-- `X128.SEED_BYTE b` (43_xsr128.md R145). -/
def execX128SeedByte (b : Byte) (s : State) : Host.Outcome State Fault Refusal :=
  inPhase .seedByte s.x128.ph
    (respond okResponse (s.setX128 (x128Byte s.params.xsrSeedPadded b s.x128))) s

/-- `X128.SEED_END` (43_xsr128.md R146). -/
def execX128SeedEnd (s : State) : Host.Outcome State Fault Refusal :=
  inPhase .seedEnd s.x128.ph
    (respond okResponse (s.setX128 (x128End s.params.xsrSeedPadded s.x128))) s

/-- `X128.NEXT` (43_xsr128.md R147): the output is computed from the state before the update. -/
def execX128Next (s : State) : Host.Outcome State Fault Refusal :=
  inPhase .next s.x128.ph (respond (x128Response s.x128.st) (s.setX128 (x128Step s.x128))) s

end Sys2Proof.Machine
end

