-- ==== Sys2Proof/Machine/X256.lean ====
section
/-! DEFINITION. The `X256` engine (42_xsr256.md): its pure functions (R120 to R122), what each command does to its
registers, and the meanings of its five commands (R123 to R127). -/

namespace Sys2Proof.Machine

/-- The four SplitMix64 rounds from hash `h`: the state words and the counter that is left
(42_xsr256.md R120 step 2, R126 step 2). -/
@[irreducible] def x256Expand (h : Word64) : Quad 64 × Word64 :=
  let (h0, z0) := smNext h
  let (h1, z1) := smNext h0
  let (h2, z2) := smNext h1
  let (h3, z3) := smNext h2
  (⟨z0, z1, z2, z3⟩, h3)

/-- `X256Seed(m)` (42_xsr256.md R120). -/
def x256Seed (m : List Byte) : Quad 64 := (x256Expand (fnv1a64 m)).1

/-- The 52-bit integer of an output step, the top 52 bits of `s0 + s3` (42_xsr256.md R121). -/
@[irreducible] def x256Mantissa (q : Quad 64) : Word64 := (q.s0 + q.s3) >>> 12

/-- The binary64 pattern in [1, 2) that the source subtracts 1.0 from (42_xsr256.md R121). -/
def x256Bits (q : Quad 64) : Word64 := exponentOne ||| x256Mantissa q

/-- `X256Update` (42_xsr256.md R122): seven assignments in order. -/
@[irreducible] def x256Update (q : Quad 64) : Quad 64 :=
  let t := q.s1 <<< 17
  let s2 := q.s2 ^^^ q.s0
  let s3 := q.s3 ^^^ q.s1
  let s1 := q.s1 ^^^ s2
  let s0 := q.s0 ^^^ s3
  let s2 := s2 ^^^ t
  let s3 := rotl s3 45
  ⟨s0, s1, s2, s3⟩

/-- The registers after entropy bytes are loaded (42_xsr256.md R123); `h` is not written. -/
@[irreducible] def x256Load (e : List Byte) (r : X256Regs) : X256Regs := { r with st := quad64OfBytes e, ph := .ready }

/-- The registers after `X256.SEED_START` (42_xsr256.md R124; the counter, 92_eei_decisions.md D11). -/
@[irreducible] def x256Start (padded : Bool) (r : X256Regs) : X256Regs :=
  { r with h := fnvBasis, cnt := countByte padded r.cnt 0#3, ph := .seeding }

/-- The registers after a seed byte in phase `SEEDING` (42_xsr256.md R125; the counter, 92_eei_decisions.md D11). -/
@[irreducible] def x256Byte (padded : Bool) (b : Byte) (r : X256Regs) : X256Regs :=
  { r with h := fnv1aStep r.h b, cnt := countByte padded r.cnt (r.cnt + 1#3) }

/-- The registers after `X256.SEED_END` in phase `SEEDING` (42_xsr256.md R126; the padding, 92_eei_decisions.md D11).
The counter keeps its value, log 8. -/
@[irreducible] def x256End (padded : Bool) (r : X256Regs) : X256Regs :=
  let (st, h) := x256Expand (finishHash padded r.cnt r.h)
  { r with st := st, h := h, ph := .ready }

/-- The registers after an output step (42_xsr256.md R127 step 4). -/
@[irreducible] def x256Step (r : X256Regs) : X256Regs := { r with st := x256Update r.st }

/-- The response of an output step from the words `q` (42_xsr256.md R127 steps 3 and 5). -/
@[irreducible] def x256Response (q : Quad 64) : Response := nextResponse (x256Mantissa q) 52

/-- `X256.ENTROPY` (42_xsr256.md R123). -/
def execX256Entropy (s : State) : Host.Outcome State Fault Refusal :=
  constructFromEntropy 32 (fun e t => t.setX256 (x256Load e t.x256)) s

/-- `X256.SEED_START` (42_xsr256.md R124). -/
def execX256SeedStart (s : State) : Host.Outcome State Fault Refusal :=
  inPhase .seedStart s.x256.ph
    (respond okResponse (s.setX256 (x256Start s.params.xsrSeedPadded s.x256))) s

/-- `X256.SEED_BYTE b` (42_xsr256.md R125). -/
def execX256SeedByte (b : Byte) (s : State) : Host.Outcome State Fault Refusal :=
  inPhase .seedByte s.x256.ph
    (respond okResponse (s.setX256 (x256Byte s.params.xsrSeedPadded b s.x256))) s

/-- `X256.SEED_END` (42_xsr256.md R126). -/
def execX256SeedEnd (s : State) : Host.Outcome State Fault Refusal :=
  inPhase .seedEnd s.x256.ph
    (respond okResponse (s.setX256 (x256End s.params.xsrSeedPadded s.x256))) s

/-- `X256.NEXT` (42_xsr256.md R127): the output is computed from the state before the update. -/
def execX256Next (s : State) : Host.Outcome State Fault Refusal :=
  inPhase .next s.x256.ph (respond (x256Response s.x256.st) (s.setX256 (x256Step s.x256))) s

end Sys2Proof.Machine
end

