-- ==== Sys2Proof/Machine/Dispatch.lean ====
section
/-! DEFINITION. One arm per command: the meaning each constructor of `Instr` has. -/

namespace Sys2Proof.Machine

def exec (i : Instr) (s : State) : Host.Outcome State Fault Refusal :=
  match i with
  | .pcgEntropy => Sys2Proof.Machine.execPcgEntropy s
  | .pcgSeedStart => Sys2Proof.Machine.execPcgSeedStart s
  | .pcgSeedByte b => Sys2Proof.Machine.execPcgSeedByte b s
  | .pcgSeedEnd => Sys2Proof.Machine.execPcgSeedEnd s
  | .pcgNext => Sys2Proof.Machine.execPcgNext s
  | .x256Entropy => Sys2Proof.Machine.execX256Entropy s
  | .x256SeedStart => Sys2Proof.Machine.execX256SeedStart s
  | .x256SeedByte b => Sys2Proof.Machine.execX256SeedByte b s
  | .x256SeedEnd => Sys2Proof.Machine.execX256SeedEnd s
  | .x256Next => Sys2Proof.Machine.execX256Next s
  | .x128Entropy => Sys2Proof.Machine.execX128Entropy s
  | .x128SeedStart => Sys2Proof.Machine.execX128SeedStart s
  | .x128SeedByte b => Sys2Proof.Machine.execX128SeedByte b s
  | .x128SeedEnd => Sys2Proof.Machine.execX128SeedEnd s
  | .x128Next => Sys2Proof.Machine.execX128Next s

end Sys2Proof.Machine
end

