-- ==== Sys2Proof/Machine/Reset.lean ====
section
/-! DEFINITION. The reset input asserted in a run (70_reset_and_hazards.md R180, 10_state.md R34), with the OPEN
parameter `RESET_LOADS_DEFAULT` (92_eei_decisions.md D8). -/

namespace Sys2Proof.Machine

/-- A register of `n` bits after the `k`-th reset of a run: unspecified, a free value (10_state.md R34). Log 6. -/
def unspecified (n k : Nat) (r : RegName) : BitVec n := (Config.freeResetValue k r).setWidth n

/-- The `PCG` registers after the `k`-th reset, unconstructed. -/
def pcgUnspecified (k : Nat) : PcgRegs where
  s := unspecified 64 k .pcgS
  acc := unspecified 64 k .pcgAcc
  cnt := unspecified 3 k .pcgCnt
  ph := .idle

/-- The `X256` registers after the `k`-th reset, unconstructed. -/
def x256Unspecified (k : Nat) : X256Regs where
  st := ⟨unspecified 64 k .x256S0, unspecified 64 k .x256S1, unspecified 64 k .x256S2, unspecified 64 k .x256S3⟩
  h := unspecified 64 k .x256H
  cnt := unspecified 3 k .x256Cnt
  ph := .idle

/-- The `X128` registers after the `k`-th reset, unconstructed. -/
def x128Unspecified (k : Nat) : X128Regs where
  st := ⟨unspecified 32 k .x128S0, unspecified 32 k .x128S1, unspecified 32 k .x128S2, unspecified 32 k .x128S3⟩
  h := unspecified 64 k .x128H
  cnt := unspecified 3 k .x128Cnt
  ph := .idle

/-- The `PCG` registers after the `k`-th reset: unconstructed, or, where `RESET_LOADS_DEFAULT` is true, as if `PCG.SEED_START`,
`PCG.SEED_END` had run (10_state.md R34). -/
@[irreducible] def pcgAfterReset (p : Params) (k : Nat) : PcgRegs :=
  if p.resetLoadsDefault then pcgEnd (pcgStart (pcgUnspecified k)) else pcgUnspecified k

/-- The same of the `X256` registers. -/
@[irreducible] def x256AfterReset (p : Params) (k : Nat) : X256Regs :=
  if p.resetLoadsDefault then x256End p.xsrSeedPadded (x256Start p.xsrSeedPadded (x256Unspecified k))
  else x256Unspecified k

/-- The same of the `X128` registers. -/
@[irreducible] def x128AfterReset (p : Params) (k : Nat) : X128Regs :=
  if p.resetLoadsDefault then x128End p.xsrSeedPadded (x128Start p.xsrSeedPadded (x128Unspecified k))
  else x128Unspecified k

/-- Reset asserted: every engine `IDLE` with every other register unspecified, or in the default state (10_state.md R34). A
command in progress is abandoned (70_reset_and_hazards.md R180); no response is given; what the host and the entropy source
still send is theirs and stays. Log 6. -/
def hardReset (s : State) : State :=
  { s with
    pcg := pcgAfterReset s.params s.resets
    x256 := x256AfterReset s.params s.resets
    x128 := x128AfterReset s.params s.resets
    entropyPending := false
    resets := s.resets + 1 }

end Sys2Proof.Machine
end

