-- ==== Sys2Proof/Machine/Step.lean ====
section
/-! DEFINITION. One step: the block takes the next input, a command word or a reset (20_memory.md R46,
70_reset_and_hazards.md R180). There is no program counter and no fetch (20_memory.md R53). -/

namespace Sys2Proof.Machine

/-- A word at the command port: decoded from the word alone (30_encoding.md R65) and run, or answered `ILLEGAL_CMD` with no
register changed (30_encoding.md R60, 60_exceptions.md R164, R167). -/
def runWord (w : CmdWord) (s : State) : Host.Outcome State Fault Refusal :=
  match decode w with
  | .command i => exec i s
  | .illegal _ => .next (raise .illegalCmd s)

/-- One step. With no input the block stays as it is (70_reset_and_hazards.md R187), log 9; while an `ENTROPY` command waits
for a source that never replies only a reset goes on (60_exceptions.md R176), log 3. -/
def step (s : State) : Host.Outcome State Fault Refusal :=
  match s.inputs with
  | [] => acceptCommand s (.next s)
  | .command w :: rest => acceptCommand s (runWord w (s.setInputs rest))
  | .reset :: rest => .next (hardReset (s.setInputs rest))

/-- The state in which the very next step takes the given word: it stands first at the command port and no earlier command
waits. Bits above `nbits` are zero. Log 1. -/
def State.withFetchWord (s : State) (nbits w : Nat) : State :=
  { s with
    inputs := .command (BitVec.ofNat 16 (w % 2 ^ nbits)) :: s.inputs
    entropyPending := false }

end Sys2Proof.Machine
end

