-- ==== Sys2Proof/Machine/SeedUtility.lean ====
section
/-! DEFINITION. The host-side seed utility: the byte layouts of its four functions (40_seed_and_shared_functions.md R78 to
R81). They run on the host, before any command is sent, and hold no state (10_state.md R33). -/

namespace Sys2Proof.Machine

/-- `random64()`: eight random bytes, used as they are (40_seed_and_shared_functions.md R78). The bytes are a free draw on the
host, so they are the argument; another length is no reply of this function. -/
def seedRandom64 (draw : List Byte) : Option (List Byte) := if draw.length = 8 then some draw else none

/-- `fromString(s)` for ASCII text, one byte for each character, nothing added (40_seed_and_shared_functions.md R79); `none` on
other text, which the spec leaves undefined (93_implementation_defined.md U8). Log 14. -/
def seedFromString : List Char → Option (List Byte)
  | [] => some []
  | c :: cs =>
    if c.toNat < 128 then (seedFromString cs).map (BitVec.ofNat 8 c.toNat :: ·) else none

/-- `fromNumber(n)` for a number of binary64 pattern `p`: its eight bytes, least significant first
(40_seed_and_shared_functions.md R80, 20_memory.md R45). -/
def seedFromNumber (p : Word64) : List Byte :=
  [p.extractLsb' 0 8, p.extractLsb' 8 8, p.extractLsb' 16 8, p.extractLsb' 24 8,
   p.extractLsb' 32 8, p.extractLsb' 40 8, p.extractLsb' 48 8, p.extractLsb' 56 8]

/-- `defaultSeed()`: the empty sequence (40_seed_and_shared_functions.md R81). -/
def defaultSeed : List Byte := []

end Sys2Proof.Machine
end

