-- ==== Sys2Proof/Machine/Assembler.lean ====
section
/-! DEFINITION. Programs as the host writes them: the pseudo-instructions (30_encoding.md R69) and the assembler syntax
(R67). None of it is part of the block; a program is a straight list of commands (R67). -/

namespace Sys2Proof.Machine

/-- `E.SEED b0, ..., b(n-1)` (30_encoding.md R69 (a)). -/
def seedProgram (e : Engine) (m : List Byte) : List Instr :=
  instrOf e .seedStart 0x00#8 :: (m.map (instrOf e .seedByte) ++ [instrOf e .seedEnd 0x00#8])

/-- `E.DEFAULT` (30_encoding.md R69 (b)). -/
def defaultProgram (e : Engine) : List Instr :=
  [instrOf e .seedStart 0x00#8, instrOf e .seedEnd 0x00#8]

/-- `E.NEXTN k` (30_encoding.md R69 (c)), for a count `k` of any size. -/
def nextProgram (e : Engine) (k : Nat) : List Instr := List.replicate k (instrOf e .next 0x00#8)

/-- What the host sends for a list of commands. -/
def sends (is : List Instr) : List Input := is.map fun i => .command (encode i)

/-- The name of an engine (30_encoding.md R67). -/
def engineName : Engine → List Char
  | .pcg => ['P', 'C', 'G']
  | .x256 => ['X', '2', '5', '6']
  | .x128 => ['X', '1', '2', '8']

/-- The name of an operation (30_encoding.md R67). -/
def operationName : Operation → List Char
  | .entropy => ['E', 'N', 'T', 'R', 'O', 'P', 'Y']
  | .seedStart => ['S', 'E', 'E', 'D', '_', 'S', 'T', 'A', 'R', 'T']
  | .seedByte => ['S', 'E', 'E', 'D', '_', 'B', 'Y', 'T', 'E']
  | .seedEnd => ['S', 'E', 'E', 'D', '_', 'E', 'N', 'D']
  | .next => ['N', 'E', 'X', 'T']

/-- The digits 0 to 15. -/
def hexDigits : List Char :=
  ['0', '1', '2', '3', '4', '5', '6', '7', '8', '9', 'a', 'b', 'c', 'd', 'e', 'f']

/-- A byte as `0x` and two hexadecimal digits (30_encoding.md R67). -/
def printByte (b : Byte) : List Char :=
  ['0', 'x', hexDigits.getD (b.toNat / 16) '0', hexDigits.getD (b.toNat % 16) '0']

/-- The text of a command (30_encoding.md R67). -/
def printInstr (i : Instr) : List Char :=
  engineName i.engine ++ '.' :: operationName i.operation ++
    (if i.operation = .seedByte then ' ' :: printByte i.imm8 else [])

/-- White space inside a line. -/
def isBlank (c : Char) : Bool := c == ' ' || c == '\t' || c == '\r'

/-- A text without white space at its ends. -/
def trim (t : List Char) : List Char := ((t.dropWhile isBlank).reverse.dropWhile isBlank).reverse

/-- A text cut at every occurrence of a character; always at least one piece. -/
def cutAt (c : Char) : List Char → List (List Char)
  | [] => [[]]
  | d :: ds =>
    match cutAt c ds with
    | [] => [[d]]
    | p :: ps => if d = c then [] :: p :: ps else (d :: p) :: ps

/-- The value of a hexadecimal digit, in either case. -/
def hexValue (c : Char) : Option Nat :=
  let n := c.toNat
  if 48 ≤ n ∧ n ≤ 57 then some (n - 48)
  else if 97 ≤ n ∧ n ≤ 102 then some (n - 87)
  else if 65 ≤ n ∧ n ≤ 70 then some (n - 55)
  else none

/-- A decimal number after a value already read. -/
def decimalFrom : Nat → List Char → Option Nat
  | acc, [] => some acc
  | acc, c :: cs =>
    if 48 ≤ c.toNat ∧ c.toNat ≤ 57 then decimalFrom (10 * acc + (c.toNat - 48)) cs else none

/-- A decimal number of at least one digit. -/
def parseDecimal : List Char → Option Nat
  | [] => none
  | c :: cs => decimalFrom 0 (c :: cs)

/-- The operand of `SEED_BYTE`: 0 to 255 in decimal, or `0x` and two hexadecimal digits (30_encoding.md R67). -/
def parseByte (t : List Char) : Option Byte :=
  match t with
  | ['0', 'x', hi, lo] =>
    match hexValue hi, hexValue lo with
    | some a, some b => some (BitVec.ofNat 8 (16 * a + b))
    | _, _ => none
  | _ =>
    match parseDecimal t with
    | some n => if n < 256 then some (BitVec.ofNat 8 n) else none
    | none => none

/-- A list of byte operands; `none` where one of them is none. -/
def parseBytes : List (List Char) → Option (List Byte)
  | [] => some []
  | t :: ts =>
    match parseByte (trim t), parseBytes ts with
    | some b, some bs => some (b :: bs)
    | _, _ => none

/-- An engine by name. -/
def engineNamed (t : List Char) : Option Engine :=
  [Engine.pcg, .x256, .x128].find? fun e => engineName e == t

/-- An operation by name. -/
def operationNamed (t : List Char) : Option Operation :=
  [Operation.entropy, .seedStart, .seedByte, .seedEnd, .next].find? fun o => operationName o == t

/-- The commands of `E.OP` with an operand text (30_encoding.md R67), the pseudo-instructions among them (R69). DESIGN CHOICE,
log 16: the count of `E.NEXTN` is written in decimal digits only, and the bytes of `E.SEED` as R67 writes the one of `SEED_BYTE`;
R69 says neither. -/
def assembleOp (e : Engine) (op arg : List Char) : Option (List Instr) :=
  match operationNamed op with
  | some .seedByte => (parseByte arg).map fun b => [instrOf e .seedByte b]
  | some o => if arg = [] then some [instrOf e o 0x00#8] else none
  | none =>
    if op = ['S', 'E', 'E', 'D'] then
      if arg = [] then some (seedProgram e []) else (parseBytes (cutAt ',' arg)).map (seedProgram e)
    else if op = ['D', 'E', 'F', 'A', 'U', 'L', 'T'] then
      if arg = [] then some (defaultProgram e) else none
    else if op = ['N', 'E', 'X', 'T', 'N'] then (parseDecimal arg).map (nextProgram e)
    else none

/-- The commands of one line: a comment runs from `;` to the end, an empty line is no command (30_encoding.md R67); `none` for
a line that is neither. DESIGN CHOICE on white space, log 14. -/
def assembleLine (line : List Char) : Option (List Instr) :=
  let t := trim (line.takeWhile (· ≠ ';'))
  if t = [] then some []
  else
    let head := t.takeWhile (fun c => !isBlank c)
    let arg := trim (t.drop head.length)
    match cutAt '.' head with
    | [u, op] =>
      match engineNamed u with
      | some e => assembleOp e op arg
      | none => none
    | _ => none

/-- The commands of some lines, in order. -/
def assembleLines : List (List Char) → Option (List Instr)
  | [] => some []
  | l :: ls =>
    match assembleLine l, assembleLines ls with
    | some is, some rest => some (is ++ rest)
    | _, _ => none

/-- The commands of a program text, one line each (30_encoding.md R67). -/
def assemble (text : List Char) : Option (List Instr) := assembleLines (cutAt '\n' text)

end Sys2Proof.Machine
end

