-- ==== Sys2Proof/Safety.lean ====
section
/-! DEFINITION. What claims are stated in: runs of several steps and of several commands, which registers belong to an
engine, which of them a command may still read, what a response may hold, and the invariant every step keeps. -/

namespace Sys2Proof.Machine

/-- `k` steps, stopping where a step stops. -/
def runFor : Nat → State → Host.Outcome State Fault Refusal
  | 0, s => .next s
  | k + 1, s =>
    match step s with
    | .next t => runFor k t
    | .fault r => .fault r
    | .refused r => .refused r

/-- Some commands, one after the other. -/
def execAll : List Instr → State → Host.Outcome State Fault Refusal
  | [], s => .next s
  | i :: is, s =>
    match exec i s with
    | .next t => execAll is t
    | .fault r => .fault r
    | .refused r => .refused r

/-- The phase of an engine. -/
def State.phaseOf (s : State) : Engine → Phase
  | .pcg => s.pcg.ph
  | .x256 => s.x256.ph
  | .x128 => s.x128.ph

/-- One engine has the same registers in both states. -/
def sameEngine (e : Engine) (s t : State) : Prop :=
  match e with
  | .pcg => s.pcg = t.pcg
  | .x256 => s.x256 = t.x256
  | .x128 => s.x128 = t.x128

/-- Every register of the block is the same in both states. -/
def sameRegisters (s t : State) : Prop := ∀ e, sameEngine e s t

/-- A run in which no command has faulted: the record of faults that 60_exceptions.md R168 leaves to the model. -/
def faultFree (s : State) : Prop := ∀ r ∈ s.responses, r.status = .ok

/-- A response as 30_encoding.md R62 allows it: zero payload with a fault, and `f64` the pattern of `num` over `2^32` or
`2^52` (92_eei_decisions.md D15). -/
def Response.wellFormed (r : Response) : Prop :=
  (r.status ≠ .ok → r.num = 0#64 ∧ r.f64 = 0#64) ∧
  ((r.num.toNat < 2 ^ 32 ∧ r.f64 = f64Frac r.num.toNat 32) ∨
    (r.num.toNat < 2 ^ 52 ∧ r.f64 = f64Frac r.num.toNat 52))

/-- The invariant of the machine: while `PCG` is seeding the byte positions of `acc` not yet received hold zero
(10_state.md R21), and every response given is one the spec allows. -/
def StateInv (s : State) : Prop :=
  (s.pcg.ph = .seeding → s.pcg.acc.toNat < 2 ^ (8 * s.pcg.cnt.toNat)) ∧
  ∀ r ∈ s.responses, r.wellFormed

/-- Two `PCG` register sets agree in the phase and in what a command can read in it (10_state.md R34,
70_reset_and_hazards.md R181). -/
def PcgRegs.agree (a b : PcgRegs) : Prop :=
  a.ph = b.ph ∧
  (a.ph = .seeding → a.s = b.s ∧ a.acc = b.acc ∧ a.cnt = b.cnt) ∧
  (a.ph = .ready → a.s = b.s)

/-- The same of two `X256` register sets; the byte counter is read only where `XSR_SEED_PADDED` is true. -/
def X256Regs.agree (padded : Bool) (a b : X256Regs) : Prop :=
  a.ph = b.ph ∧
  (a.ph = .seeding → a.h = b.h ∧ (padded = true → a.cnt = b.cnt)) ∧
  (a.ph = .ready → a.st = b.st)

/-- The same of two `X128` register sets. -/
def X128Regs.agree (padded : Bool) (a b : X128Regs) : Prop :=
  a.ph = b.ph ∧
  (a.ph = .seeding → a.h = b.h ∧ (padded = true → a.cnt = b.cnt)) ∧
  (a.ph = .ready → a.st = b.st)

/-- Two states agree in the phases, in every register a command can read in its phase, and at the ports. -/
def agreeReadable (s t : State) : Prop :=
  s.pcg.agree t.pcg ∧
  s.x256.agree s.params.xsrSeedPadded t.x256 ∧
  s.x128.agree s.params.xsrSeedPadded t.x128 ∧
  s.params = t.params ∧ s.inputs = t.inputs ∧ s.entropyReplies = t.entropyReplies ∧
  s.entropyRequests = t.entropyRequests ∧ s.entropyPending = t.entropyPending ∧
  s.responses = t.responses ∧ s.resets = t.resets

/-- A response with a zero payload (30_encoding.md R62). -/
def bareResponse (c : Status) : Response := { status := c, num := 0#64, f64 := 0#64 }

/-- How many bytes an engine's `ENTROPY` asks for (30_encoding.md R64). -/
def entropyBytes : Engine → Nat
  | .pcg => 8
  | .x256 => 32
  | .x128 => 16

/-- `e[off] + e[off+1]*2^8 + ...` over `n` bytes: what 00_scope.md R13 writes `LE64` and `LE32`. -/
def leSum (e : List Byte) (off n : Nat) : Nat :=
  ∑ k ∈ Finset.range n, (e.getD (off + k) 0#8).toNat * 2 ^ (8 * k)

end Sys2Proof.Machine
end

