-- ==== Sys2Proof/Certificates/Slice0/Obligations.lean ====
section
/-! DEFINITION. The statements for the provers, in the terms of `Safety.lean`; each docstring names the rule of the spec it
formalises. Literals are written out where the rule writes them. -/

open Sys2Proof Sys2Proof.Machine

/-! ### Encoding -/

/-- Sanity: some words of 95_test_vectors.md section 8 decode as its table says (30_encoding.md R61, R65). -/
def Obligations.SpecWordsDecode : Prop :=
  decode 0x0100#16 = .command .pcgEntropy ∧
  decode 0x0300#16 = .command (.pcgSeedByte 0x00#8) ∧
  decode 0x03ff#16 = .command (.pcgSeedByte 0xff#8) ∧
  decode 0x0b61#16 = .command (.x256SeedByte 0x61#8) ∧
  decode 0x0d00#16 = .command .x256Next ∧
  decode 0x1361#16 = .command (.x128SeedByte 0x61#8) ∧
  decode 0x1500#16 = .command .x128Next ∧
  decode 0x0000#16 = .illegal .reservedOperation ∧
  decode 0x0501#16 = .illegal .operandNotZero ∧
  decode 0x1d00#16 = .illegal .reservedUnit ∧
  decode 0x8500#16 = .illegal .reservedField

/-- Every command, with every byte, is what its word decodes to (30_encoding.md R61). -/
def Obligations.DecodeOfEncode : Prop := ∀ i : Instr, decode (encode i) = .command i

/-- A word that decodes to a command is the word of that command: no command has two words (30_encoding.md R61). -/
def Obligations.EncodeOfDecode : Prop := ∀ (w : CmdWord) (i : Instr), decode w = .command i → encode i = w

/-- The rows of 30_encoding.md R61: a word selects a row if and only if `w & mask = match`; 780 words are commands. -/
def Obligations.CommandTableRows : Prop :=
  (∀ w : CmdWord,
    (decode w = .command .pcgEntropy ↔ w &&& 0xFFFF#16 = 0x0100#16) ∧
    (decode w = .command .pcgSeedStart ↔ w &&& 0xFFFF#16 = 0x0200#16) ∧
    (∀ b, decode w = .command (.pcgSeedByte b) ↔ w &&& 0xFF00#16 = 0x0300#16 ∧ b = w.extractLsb' 0 8) ∧
    (decode w = .command .pcgSeedEnd ↔ w &&& 0xFFFF#16 = 0x0400#16) ∧
    (decode w = .command .pcgNext ↔ w &&& 0xFFFF#16 = 0x0500#16) ∧
    (decode w = .command .x256Entropy ↔ w &&& 0xFFFF#16 = 0x0900#16) ∧
    (decode w = .command .x256SeedStart ↔ w &&& 0xFFFF#16 = 0x0A00#16) ∧
    (∀ b, decode w = .command (.x256SeedByte b) ↔ w &&& 0xFF00#16 = 0x0B00#16 ∧ b = w.extractLsb' 0 8) ∧
    (decode w = .command .x256SeedEnd ↔ w &&& 0xFFFF#16 = 0x0C00#16) ∧
    (decode w = .command .x256Next ↔ w &&& 0xFFFF#16 = 0x0D00#16) ∧
    (decode w = .command .x128Entropy ↔ w &&& 0xFFFF#16 = 0x1100#16) ∧
    (decode w = .command .x128SeedStart ↔ w &&& 0xFFFF#16 = 0x1200#16) ∧
    (∀ b, decode w = .command (.x128SeedByte b) ↔ w &&& 0xFF00#16 = 0x1300#16 ∧ b = w.extractLsb' 0 8) ∧
    (decode w = .command .x128SeedEnd ↔ w &&& 0xFFFF#16 = 0x1400#16) ∧
    (decode w = .command .x128Next ↔ w &&& 0xFFFF#16 = 0x1500#16)) ∧
  ∃ l : List CmdWord, l.Nodup ∧ l.length = 780 ∧ ∀ w, w ∈ l ↔ ∃ i, decode w = .command i

/-- 30_encoding.md R65 on the number a word is: the four illegal cases in order, and otherwise the command whose unit, operation
and byte stand in the fields. -/
def Obligations.DecodeByFields : Prop :=
  ∀ w : CmdWord,
    let rsv := w.toNat / 2 ^ 13
    let unit := w.toNat / 2 ^ 11 % 4
    let op := w.toNat / 2 ^ 8 % 8
    let imm := w.toNat % 2 ^ 8
    if rsv ≠ 0 then decode w = .illegal .reservedField
    else if unit = 3 then decode w = .illegal .reservedUnit
    else if op = 0 ∨ op = 6 ∨ op = 7 then decode w = .illegal .reservedOperation
    else if op ≠ 3 ∧ imm ≠ 0 then decode w = .illegal .operandNotZero
    else ∃ i, decode w = .command i ∧ i.engine.code.toNat = unit ∧ i.operation.code.toNat = op ∧
      i.imm8.toNat = imm

/-! ### Steps, reset and the ports -/

/-- A step runs the command the word at the port decodes to, after taking the word (20_memory.md R46). -/
def Obligations.StepRunsDecodedCommand : Prop :=
  ∀ (s : State) (w : CmdWord) (rest : List Input) (i : Instr),
    s.inputs = .command w :: rest → s.entropyPending = false → decode w = .command i →
    step s = exec i { s with inputs := rest }

/-- A word with a non-zero `rsv`, `unit = 11`, a reserved `op`, or a non-zero `imm8` outside format B is answered `ILLEGAL_CMD` and
changes nothing else, and every other word is a command (30_encoding.md R60, 60_exceptions.md R164). -/
def Obligations.IllegalWordFaults : Prop :=
  ∀ w : CmdWord,
    let illegal : Prop :=
      w.toNat / 2 ^ 13 ≠ 0 ∨ w.toNat / 2 ^ 11 % 4 = 3 ∨
      (w.toNat / 2 ^ 8 % 8 = 0 ∨ w.toNat / 2 ^ 8 % 8 = 6 ∨ w.toNat / 2 ^ 8 % 8 = 7) ∨
      (w.toNat / 2 ^ 8 % 8 ≠ 3 ∧ w.toNat % 2 ^ 8 ≠ 0)
    (illegal → ∀ (s : State) (rest : List Input), s.inputs = .command w :: rest → s.entropyPending = false →
      step s = .next { s with inputs := rest, responses := bareResponse .illegalCmd :: s.responses }) ∧
    (¬ illegal → ∃ i, decode w = .command i)

/-- The model's choices at the ports (log 3, log 9; 60_exceptions.md R176): no step is refused, a step stops only while an
`ENTROPY` command waits for a source that never replies and no reset comes, and with no input a free block stays as it is. -/
def Obligations.StepStopsOnlyWaiting : Prop :=
  ∀ s : State,
    (s.inputs = [] → s.entropyPending = false → step s = .next s) ∧
    (∀ r, step s ≠ .refused r) ∧
    (∀ r, step s = .fault r ↔
      r = .entropyNeverReplied ∧ s.entropyPending = true ∧ ∀ rest, s.inputs ≠ .reset :: rest)

/-- After reset under the default parameters every engine is `IDLE`, nothing waits, and the two OPEN parameters are false
(10_state.md R34, 00_scope.md R8). -/
def Obligations.ResetState : Prop :=
  (∀ e, State.reset.phaseOf e = .idle) ∧ State.reset.entropyPending = false ∧
  State.reset.responses = [] ∧
  State.reset.params.xsrSeedPadded = false ∧ State.reset.params.resetLoadsDefault = false

/-- The reset input (10_state.md R34, 70_reset_and_hazards.md R180): every engine `IDLE`, a command in progress abandoned
without a response, and nothing of the old registers survives; with `RESET_LOADS_DEFAULT` every engine `READY` in the default
state of 70_reset_and_hazards.md R182. That the unspecified registers are free values is the model's choice (log 6). -/
def Obligations.ResetInput : Prop :=
  (∀ (s : State) (rest : List Input), s.inputs = .reset :: rest →
    ∃ t, step s = .next t ∧ t.inputs = rest ∧ t.entropyPending = false ∧ t.responses = s.responses ∧
      t.params = s.params ∧
      (s.params.resetLoadsDefault = false → ∀ e, t.phaseOf e = .idle) ∧
      (s.params.resetLoadsDefault = true →
        (∀ e, t.phaseOf e = .ready) ∧
        t.pcg.s = 0xcafef00dd15ea5e5#64 ∧
        t.x256.st = ⟨0xc3817c016ba4ff30#64, 0x100cdaacc0bc9316#64, 0x54c3a569ecf61b1b#64, 0x2c65920724651c72#64⟩ ∧
        t.x128.st = ⟨0x6ba4ff30#32, 0xc3817c01#32, 0xc0bc9316#32, 0x100cdaac#32⟩)) ∧
  (∀ (s s' t t' : State) (rest rest' : List Input),
    s.inputs = .reset :: rest → s'.inputs = .reset :: rest' → s.params = s'.params → s.resets = s'.resets →
    step s = .next t → step s' = .next t' → sameRegisters t t')

/-- The entropy port: bytes given always have the length asked for, and only `ENTROPY` makes a request, exactly one
(30_encoding.md R64); a listed reply that is `Fail`, or bytes of that length, is taken as it is. That a listed reply of bytes of
another length counts as `Fail` is the model's choice (log 4; for a shorter one 91_not_in_source.md N21 says so), and so is the list
of replies (log 2). A silent reply is the matter of `SilentEntropyWaits`. -/
def Obligations.EntropyPort : Prop :=
  (∀ (n : Nat) (s : State) (r : EntropyReply) (rest : List EntropyReply), s.entropyReplies = r :: rest →
    (r = .fail → entropyReply n s = .fail) ∧
    (∀ e, r = .bytes e → e.length = n → entropyReply n s = .bytes e) ∧
    (∀ e, r = .bytes e → e.length ≠ n → entropyReply n s = .fail)) ∧
  (∀ (n : Nat) (s : State) (e : List Byte), entropyReply n s = .bytes e → e.length = n) ∧
  (∀ (i : Instr) (s t : State), exec i s = .next t →
    (i.operation = .entropy →
      t.entropyRequests = s.entropyRequests + 1 ∧ t.entropyReplies = s.entropyReplies.tail) ∧
    (i.operation ≠ .entropy →
      t.entropyRequests = s.entropyRequests ∧ t.entropyReplies = s.entropyReplies))

/-- An `ENTROPY` command whose request is never answered gives no response and writes no register; the block then accepts no
command (60_exceptions.md R176; log 3). -/
def Obligations.SilentEntropyWaits : Prop :=
  ∀ (i : Instr) (s : State), i.operation = .entropy → entropyReply (entropyBytes i.engine) s = .silent →
    exec i s = .next { s with
      entropyReplies := s.entropyReplies.tail
      entropyRequests := s.entropyRequests + 1
      entropyPending := true } ∧
    ∀ t, exec i s = .next t → (∀ rest, t.inputs ≠ .reset :: rest) → step t = .fault .entropyNeverReplied

/-! ### The commands of `PCG` -/

/-- `PCG.ENTROPY` (41_pcg.md R105). -/
def Obligations.PcgEntropyRule : Prop :=
  decode 0x0100#16 = .command .pcgEntropy ∧
  ∀ s : State,
    (∀ e, entropyReply 8 s = .bytes e →
      exec .pcgEntropy s = .next { s with
        pcg := { s.pcg with s := BitVec.ofNat 64 (leSum e 0 8), ph := .ready }
        entropyReplies := s.entropyReplies.tail
        entropyRequests := s.entropyRequests + 1
        responses := bareResponse .ok :: s.responses }) ∧
    (entropyReply 8 s = .fail →
      exec .pcgEntropy s = .next { s with
        entropyReplies := s.entropyReplies.tail
        entropyRequests := s.entropyRequests + 1
        responses := bareResponse .entropyFail :: s.responses })

/-- `PCG.SEED_START` (41_pcg.md R106). -/
def Obligations.PcgSeedStartRule : Prop :=
  decode 0x0200#16 = .command .pcgSeedStart ∧
  ∀ s : State, exec .pcgSeedStart s = .next { s with
    pcg := { s := 0xcafef00dd15ea5e5#64, acc := 0#64, cnt := 0#3, ph := .seeding }
    responses := bareResponse .ok :: s.responses }

/-- `PCG.SEED_BYTE b` (41_pcg.md R107). -/
def Obligations.PcgSeedByteRule : Prop :=
  ∀ b : Byte,
    decode (0x03#8 ++ b) = .command (.pcgSeedByte b) ∧
    ∀ s : State,
      let a := s.pcg.acc ||| (b.setWidth 64 <<< (8 * s.pcg.cnt.toNat))
      (s.pcg.ph = .seeding → s.pcg.cnt = 7#3 →
        exec (.pcgSeedByte b) s = .next { s with
          pcg := { s := (s.pcg.s + a) * 0x5851f42d4c957f2d#64 + 0x14057b7ef767814f#64
                   acc := 0#64, cnt := 0#3, ph := .seeding }
          responses := bareResponse .ok :: s.responses }) ∧
      (s.pcg.ph = .seeding → s.pcg.cnt ≠ 7#3 →
        exec (.pcgSeedByte b) s = .next { s with
          pcg := { s := s.pcg.s, acc := a, cnt := s.pcg.cnt + 1#3, ph := .seeding }
          responses := bareResponse .ok :: s.responses }) ∧
      (s.pcg.ph ≠ .seeding →
        exec (.pcgSeedByte b) s = .next { s with responses := bareResponse .badPhase :: s.responses })

/-- `PCG.SEED_END` (41_pcg.md R108). -/
def Obligations.PcgSeedEndRule : Prop :=
  decode 0x0400#16 = .command .pcgSeedEnd ∧
  ∀ s : State,
    (s.pcg.ph = .seeding → s.pcg.cnt ≠ 0#3 →
      exec .pcgSeedEnd s = .next { s with
        pcg := { s := (s.pcg.s + s.pcg.acc) * 0x5851f42d4c957f2d#64 + 0x14057b7ef767814f#64
                 acc := 0#64, cnt := 0#3, ph := .ready }
        responses := bareResponse .ok :: s.responses }) ∧
    (s.pcg.ph = .seeding → s.pcg.cnt = 0#3 →
      exec .pcgSeedEnd s = .next { s with
        pcg := { s.pcg with ph := .ready }
        responses := bareResponse .ok :: s.responses }) ∧
    (s.pcg.ph ≠ .seeding →
      exec .pcgSeedEnd s = .next { s with responses := bareResponse .badPhase :: s.responses })

/-- `PCG.NEXT` (41_pcg.md R109, with the functions of R103 and R104 written out). -/
def Obligations.PcgNextRule : Prop :=
  decode 0x0500#16 = .command .pcgNext ∧
  ∀ s : State,
    let old := s.pcg.s
    let x := old ^^^ (old >>> 18)
    let output := (x.extractLsb' 27 32).rotateRight (old.extractLsb' 59 5).toNat
    (s.pcg.ph = .ready →
      exec .pcgNext s = .next { s with
        pcg := { s.pcg with s := old * 0x5851f42d4c957f2d#64 + 0x14057b7ef767814f#64 }
        responses :=
          { status := .ok, num := output.setWidth 64, f64 := f64Frac output.toNat 32 } :: s.responses }) ∧
    (s.pcg.ph ≠ .ready →
      exec .pcgNext s = .next { s with responses := bareResponse .badPhase :: s.responses })

/-! ### The commands of `X256` -/

/-- `X256.ENTROPY` (42_xsr256.md R123). -/
def Obligations.X256EntropyRule : Prop :=
  decode 0x0900#16 = .command .x256Entropy ∧
  ∀ s : State,
    (∀ e, entropyReply 32 s = .bytes e →
      exec .x256Entropy s = .next { s with
        x256 := { s.x256 with
          st := ⟨BitVec.ofNat 64 (leSum e 0 8), BitVec.ofNat 64 (leSum e 8 8), BitVec.ofNat 64 (leSum e 16 8),
            BitVec.ofNat 64 (leSum e 24 8)⟩
          ph := .ready }
        entropyReplies := s.entropyReplies.tail
        entropyRequests := s.entropyRequests + 1
        responses := bareResponse .ok :: s.responses }) ∧
    (entropyReply 32 s = .fail →
      exec .x256Entropy s = .next { s with
        entropyReplies := s.entropyReplies.tail
        entropyRequests := s.entropyRequests + 1
        responses := bareResponse .entropyFail :: s.responses })

/-- `X256.SEED_START` (42_xsr256.md R124), for the default `XSR_SEED_PADDED = false`, at which the rule is stated. -/
def Obligations.X256SeedStartRule : Prop :=
  decode 0x0A00#16 = .command .x256SeedStart ∧
  ∀ s : State, s.params.xsrSeedPadded = false →
    exec .x256SeedStart s = .next { s with
      x256 := { s.x256 with h := 0xcbf29ce484222325#64, ph := .seeding }
      responses := bareResponse .ok :: s.responses }

/-- `X256.SEED_BYTE b` (42_xsr256.md R125), for `XSR_SEED_PADDED = false`. -/
def Obligations.X256SeedByteRule : Prop :=
  ∀ b : Byte,
    decode (0x0B#8 ++ b) = .command (.x256SeedByte b) ∧
    ∀ s : State, s.params.xsrSeedPadded = false →
      (s.x256.ph = .seeding →
        exec (.x256SeedByte b) s = .next { s with
          x256 := { s.x256 with h := (s.x256.h ^^^ b.setWidth 64) * 0x100000001b3#64 }
          responses := bareResponse .ok :: s.responses }) ∧
      (s.x256.ph ≠ .seeding →
        exec (.x256SeedByte b) s = .next { s with responses := bareResponse .badPhase :: s.responses })

/-- `X256.SEED_END` (42_xsr256.md R126), for `XSR_SEED_PADDED = false`; the counters in the closed form of
40_seed_and_shared_functions.md R85. -/
def Obligations.X256SeedEndRule : Prop :=
  decode 0x0C00#16 = .command .x256SeedEnd ∧
  ∀ s : State, s.params.xsrSeedPadded = false →
    let g := 0x9e3779b97f4a7c15#64
    (s.x256.ph = .seeding →
      exec .x256SeedEnd s = .next { s with
        x256 := { s.x256 with
          st := ⟨mix64 (s.x256.h + 1#64 * g), mix64 (s.x256.h + 2#64 * g), mix64 (s.x256.h + 3#64 * g),
            mix64 (s.x256.h + 4#64 * g)⟩
          h := s.x256.h + 4#64 * g
          ph := .ready }
        responses := bareResponse .ok :: s.responses }) ∧
    (s.x256.ph ≠ .seeding →
      exec .x256SeedEnd s = .next { s with responses := bareResponse .badPhase :: s.responses })

/-- `X256.NEXT` (42_xsr256.md R127, with R121 and the parallel form of R122 written out). -/
def Obligations.X256NextRule : Prop :=
  decode 0x0D00#16 = .command .x256Next ∧
  ∀ s : State,
    let a0 := s.x256.st.s0
    let a1 := s.x256.st.s1
    let a2 := s.x256.st.s2
    let a3 := s.x256.st.s3
    let m := ((a0 + a3).extractLsb' 12 52).setWidth 64
    (s.x256.ph = .ready →
      exec .x256Next s = .next { s with
        x256 := { s.x256 with
          st := ⟨a0 ^^^ a1 ^^^ a3, a0 ^^^ a1 ^^^ a2, a0 ^^^ a2 ^^^ (a1 <<< 17), (a1 ^^^ a3).rotateLeft 45⟩ }
        responses := { status := .ok, num := m, f64 := f64Frac m.toNat 52 } :: s.responses }) ∧
    (s.x256.ph ≠ .ready →
      exec .x256Next s = .next { s with responses := bareResponse .badPhase :: s.responses })

/-! ### The commands of `X128` -/

/-- `X128.ENTROPY` (43_xsr128.md R143). -/
def Obligations.X128EntropyRule : Prop :=
  decode 0x1100#16 = .command .x128Entropy ∧
  ∀ s : State,
    (∀ e, entropyReply 16 s = .bytes e →
      exec .x128Entropy s = .next { s with
        x128 := { s.x128 with
          st := ⟨BitVec.ofNat 32 (leSum e 0 4), BitVec.ofNat 32 (leSum e 4 4), BitVec.ofNat 32 (leSum e 8 4),
            BitVec.ofNat 32 (leSum e 12 4)⟩
          ph := .ready }
        entropyReplies := s.entropyReplies.tail
        entropyRequests := s.entropyRequests + 1
        responses := bareResponse .ok :: s.responses }) ∧
    (entropyReply 16 s = .fail →
      exec .x128Entropy s = .next { s with
        entropyReplies := s.entropyReplies.tail
        entropyRequests := s.entropyRequests + 1
        responses := bareResponse .entropyFail :: s.responses })

/-- `X128.SEED_START` (43_xsr128.md R144), for the default `XSR_SEED_PADDED = false`, at which the rule is stated. -/
def Obligations.X128SeedStartRule : Prop :=
  decode 0x1200#16 = .command .x128SeedStart ∧
  ∀ s : State, s.params.xsrSeedPadded = false →
    exec .x128SeedStart s = .next { s with
      x128 := { s.x128 with h := 0xcbf29ce484222325#64, ph := .seeding }
      responses := bareResponse .ok :: s.responses }

/-- `X128.SEED_BYTE b` (43_xsr128.md R145), for `XSR_SEED_PADDED = false`. -/
def Obligations.X128SeedByteRule : Prop :=
  ∀ b : Byte,
    decode (0x13#8 ++ b) = .command (.x128SeedByte b) ∧
    ∀ s : State, s.params.xsrSeedPadded = false →
      (s.x128.ph = .seeding →
        exec (.x128SeedByte b) s = .next { s with
          x128 := { s.x128 with h := (s.x128.h ^^^ b.setWidth 64) * 0x100000001b3#64 }
          responses := bareResponse .ok :: s.responses }) ∧
      (s.x128.ph ≠ .seeding →
        exec (.x128SeedByte b) s = .next { s with responses := bareResponse .badPhase :: s.responses })

/-- `X128.SEED_END` (43_xsr128.md R146; the low half first, 20_memory.md R42), for `XSR_SEED_PADDED = false`. -/
def Obligations.X128SeedEndRule : Prop :=
  decode 0x1400#16 = .command .x128SeedEnd ∧
  ∀ s : State, s.params.xsrSeedPadded = false →
    let g := 0x9e3779b97f4a7c15#64
    let z0 := mix64 (s.x128.h + g)
    let z1 := mix64 (s.x128.h + g + g)
    (s.x128.ph = .seeding →
      exec .x128SeedEnd s = .next { s with
        x128 := { s.x128 with
          st := ⟨BitVec.ofNat 32 (z0.toNat % 2 ^ 32), BitVec.ofNat 32 (z0.toNat / 2 ^ 32),
            BitVec.ofNat 32 (z1.toNat % 2 ^ 32), BitVec.ofNat 32 (z1.toNat / 2 ^ 32)⟩
          h := s.x128.h + g + g
          ph := .ready }
        responses := bareResponse .ok :: s.responses }) ∧
    (s.x128.ph ≠ .seeding →
      exec .x128SeedEnd s = .next { s with responses := bareResponse .badPhase :: s.responses })

/-- `X128.NEXT` (43_xsr128.md R147, with R141 and the parallel form of R142 written out). -/
def Obligations.X128NextRule : Prop :=
  decode 0x1500#16 = .command .x128Next ∧
  ∀ s : State,
    let a0 := s.x128.st.s0
    let a1 := s.x128.st.s1
    let a2 := s.x128.st.s2
    let a3 := s.x128.st.s3
    let r := (a1 * 5#32).rotateLeft 7 * 9#32
    (s.x128.ph = .ready →
      exec .x128Next s = .next { s with
        x128 := { s.x128 with
          st := ⟨a0 ^^^ a1 ^^^ a3, a0 ^^^ a1 ^^^ a2, a0 ^^^ a2 ^^^ (a1 <<< 9), (a1 ^^^ a3).rotateLeft 11⟩ }
        responses := { status := .ok, num := r.setWidth 64, f64 := f64Frac r.toNat 32 } :: s.responses }) ∧
    (s.x128.ph ≠ .ready →
      exec .x128Next s = .next { s with responses := bareResponse .badPhase :: s.responses })

/-- The seed commands of `X256` where the OPEN parameter `XSR_SEED_PADDED` is true (92_eei_decisions.md D11): the byte counter runs,
and `SEED_END` first hashes `(8 - n mod 8) mod 8` zero bytes. That `SEED_END` keeps the counter is the model's choice (log 8). -/
def Obligations.X256PaddedSeedCommands : Prop :=
  ∀ s : State, s.params.xsrSeedPadded = true →
    let g := 0x9e3779b97f4a7c15#64
    let h := (fun h => fnv1aStep h 0x00#8)^[(8 - s.x256.cnt.toNat) % 8] s.x256.h
    exec .x256SeedStart s = .next { s with
      x256 := { s.x256 with h := 0xcbf29ce484222325#64, cnt := 0#3, ph := .seeding }
      responses := bareResponse .ok :: s.responses } ∧
    (s.x256.ph = .seeding →
      (∀ b, exec (.x256SeedByte b) s = .next { s with
        x256 := { s.x256 with h := (s.x256.h ^^^ b.setWidth 64) * 0x100000001b3#64, cnt := s.x256.cnt + 1#3 }
        responses := bareResponse .ok :: s.responses }) ∧
      exec .x256SeedEnd s = .next { s with
        x256 := { s.x256 with
          st := ⟨mix64 (h + 1#64 * g), mix64 (h + 2#64 * g), mix64 (h + 3#64 * g), mix64 (h + 4#64 * g)⟩
          h := h + 4#64 * g
          ph := .ready }
        responses := bareResponse .ok :: s.responses }) ∧
    (s.x256.ph ≠ .seeding →
      (∀ b, exec (.x256SeedByte b) s = .next { s with responses := bareResponse .badPhase :: s.responses }) ∧
      exec .x256SeedEnd s = .next { s with responses := bareResponse .badPhase :: s.responses })

/-- The seed commands of `X128` where the OPEN parameter `XSR_SEED_PADDED` is true (92_eei_decisions.md D11): the byte counter runs,
and `SEED_END` first hashes `(8 - n mod 8) mod 8` zero bytes. That `SEED_END` keeps the counter is the model's choice (log 8). -/
def Obligations.X128PaddedSeedCommands : Prop :=
  ∀ s : State, s.params.xsrSeedPadded = true →
    let g := 0x9e3779b97f4a7c15#64
    let h := (fun h => fnv1aStep h 0x00#8)^[(8 - s.x128.cnt.toNat) % 8] s.x128.h
    exec .x128SeedStart s = .next { s with
      x128 := { s.x128 with h := 0xcbf29ce484222325#64, cnt := 0#3, ph := .seeding }
      responses := bareResponse .ok :: s.responses } ∧
    (s.x128.ph = .seeding →
      (∀ b, exec (.x128SeedByte b) s = .next { s with
        x128 := { s.x128 with h := (s.x128.h ^^^ b.setWidth 64) * 0x100000001b3#64, cnt := s.x128.cnt + 1#3 }
        responses := bareResponse .ok :: s.responses }) ∧
      exec .x128SeedEnd s = .next { s with
        x128 := { s.x128 with
          st := ⟨(mix64 (h + 1#64 * g)).extractLsb' 0 32, (mix64 (h + 1#64 * g)).extractLsb' 32 32,
            (mix64 (h + 2#64 * g)).extractLsb' 0 32, (mix64 (h + 2#64 * g)).extractLsb' 32 32⟩
          h := h + 2#64 * g
          ph := .ready }
        responses := bareResponse .ok :: s.responses }) ∧
    (s.x128.ph ≠ .seeding →
      (∀ b, exec (.x128SeedByte b) s = .next { s with responses := bareResponse .badPhase :: s.responses }) ∧
      exec .x128SeedEnd s = .next { s with responses := bareResponse .badPhase :: s.responses })

/-! ### Rules of the whole machine -/

/-- The table of 10_state.md R28: for each command and each phase before it, the phase after it or the fault raised, a faulting
command changing no register. -/
def Obligations.PhaseTable : Prop :=
  ∀ (i : Instr) (s : State),
    let goesTo (ph : Phase) : Prop :=
      ∃ t r, exec i s = .next t ∧ t.responses = r :: s.responses ∧ r.status = .ok ∧ t.phaseOf i.engine = ph
    let faults (c : Status) : Prop :=
      ∃ t r, exec i s = .next t ∧ t.responses = r :: s.responses ∧ r.status = c ∧ sameRegisters s t
    (i.operation = .entropy →
      (∀ e, entropyReply (entropyBytes i.engine) s = .bytes e → goesTo .ready) ∧
      (entropyReply (entropyBytes i.engine) s = .fail → faults .entropyFail)) ∧
    (i.operation = .seedStart → goesTo .seeding) ∧
    (i.operation = .seedByte →
      match s.phaseOf i.engine with
      | .idle => faults .badPhase
      | .seeding => goesTo .seeding
      | .ready => faults .badPhase) ∧
    (i.operation = .seedEnd →
      match s.phaseOf i.engine with
      | .idle => faults .badPhase
      | .seeding => goesTo .ready
      | .ready => faults .badPhase) ∧
    (i.operation = .next →
      match s.phaseOf i.engine with
      | .idle => faults .badPhase
      | .seeding => faults .badPhase
      | .ready => goesTo .ready)

/-- A fault leaves every register unchanged, is not sticky and touches nothing but the ports (60_exceptions.md R168). -/
def Obligations.FaultKeepsRegisters : Prop :=
  ∀ (w : CmdWord) (s t : State) (r : Response),
    runWord w s = .next t → t.responses = r :: s.responses → r.status ≠ .ok →
    sameRegisters s t ∧
    t = { s with
      entropyReplies := t.entropyReplies
      entropyRequests := t.entropyRequests
      responses := r :: s.responses }

/-- Every command, legal or not, gives exactly one response, of the form of 30_encoding.md R62, unless it waits for an entropy
source that never replies. -/
def Obligations.OneResponse : Prop :=
  ∀ (w : CmdWord) (s t : State),
    s.entropyPending = false → runWord w s = .next t → t.entropyPending = false →
    ∃ r, t.responses = r :: s.responses ∧
      (r.status ≠ .ok → r.num = 0#64 ∧ r.f64 = 0#64) ∧
      (∀ i, decode w = .command i → i.operation ≠ .next → r.num = 0#64 ∧ r.f64 = 0#64) ∧
      (decode w = .command .pcgNext → r.status = .ok →
        r.num = (pcgOut s.pcg.s).setWidth 64 ∧ f64Value r.f64 = some (((pcgOut s.pcg.s).toNat : ℚ) / 2 ^ 32)) ∧
      (decode w = .command .x256Next → r.status = .ok →
        r.num = (s.x256.st.s0 + s.x256.st.s3) >>> 12 ∧
        f64Value r.f64 = some ((((s.x256.st.s0 + s.x256.st.s3) >>> 12).toNat : ℚ) / 2 ^ 52)) ∧
      (decode w = .command .x128Next → r.status = .ok →
        r.num = (x128Out s.x128.st.s1).setWidth 64 ∧
        f64Value r.f64 = some (((x128Out s.x128.st.s1).toNat : ℚ) / 2 ^ 32)) ∧
      ∃ v : ℚ, f64Value r.f64 = some v ∧ 0 ≤ v ∧ v < 1

/-- No command of one engine reads or writes a register of another (10_state.md R26). -/
def Obligations.EngineOwnership : Prop :=
  (∀ (i : Instr) (s t : State) (e : Engine), exec i s = .next t → e ≠ i.engine → sameEngine e s t) ∧
  (∀ (i : Instr) (s t : State), sameEngine i.engine s t → s.params = t.params →
    s.entropyReplies = t.entropyReplies → s.entropyRequests = t.entropyRequests →
    ∃ s' t' given, exec i s = .next s' ∧ exec i t = .next t' ∧ sameEngine i.engine s' t' ∧
      s'.responses = given ++ s.responses ∧ t'.responses = given ++ t.responses)

/-- Consecutive commands addressed to different engines commute: the same registers and the same two responses. Two `ENTROPY`
commands would exchange their replies, which this model draws from one list (20_memory.md R51). -/
def Obligations.EnginesCommute : Prop :=
  ∀ (i j : Instr) (s : State), i.engine ≠ j.engine →
    (i.operation ≠ .entropy ∨ j.operation ≠ .entropy) →
    ∃ a b c d ri rj,
      exec i s = .next a ∧ exec j a = .next b ∧ exec j s = .next c ∧ exec i c = .next d ∧
      sameRegisters b d ∧
      a.responses = ri ++ s.responses ∧ b.responses = rj ++ a.responses ∧
      c.responses = rj ++ s.responses ∧ d.responses = ri ++ c.responses

/-- A run of interleaved commands leaves each engine as the run of its own commands alone does, and gives that run's responses
among its own (20_memory.md R51, 70_reset_and_hazards.md R186; 95_test_vectors.md section 9, Program 6). -/
def Obligations.InterleavingProjects : Prop :=
  ∀ (is : List Instr) (e : Engine) (s : State), (∀ i ∈ is, i.operation ≠ .entropy) →
    ∃ t t', execAll is s = .next t ∧ execAll (is.filter fun i => decide (i.engine = e)) s = .next t' ∧
      sameEngine e t t' ∧ t'.responses.Sublist t.responses

/-- Seeding `PCG` byte by byte is the source's whole-sequence algorithm (41_pcg.md R110): for every byte sequence and every prior
state, all the commands respond `OK` and leave `PcgSeed(m)`. -/
def Obligations.PcgSeedingIsPcgSeed : Prop :=
  ∀ (m : List Byte) (rest : List Input) (s : State),
    s.inputs = sends (seedProgram .pcg m) ++ rest → s.entropyPending = false →
    runFor (m.length + 2) s = .next { s with
      pcg := { s := pcgSeed m, acc := 0#64, cnt := 0#3, ph := .ready }
      inputs := rest
      responses := List.replicate (m.length + 2) (bareResponse .ok) ++ s.responses }

/-- Seeding `X256` byte by byte is the source's whole-sequence algorithm (42_xsr256.md R128), for `XSR_SEED_PADDED = false`. -/
def Obligations.X256SeedingIsX256Seed : Prop :=
  ∀ (m : List Byte) (rest : List Input) (s : State),
    s.inputs = sends (seedProgram .x256 m) ++ rest → s.entropyPending = false →
    s.params.xsrSeedPadded = false →
    runFor (m.length + 2) s = .next { s with
      x256 := { st := x256Seed m, h := fnv1a64 m + 4#64 * 0x9e3779b97f4a7c15#64, cnt := s.x256.cnt, ph := .ready }
      inputs := rest
      responses := List.replicate (m.length + 2) (bareResponse .ok) ++ s.responses }

/-- Seeding `X128` byte by byte is the source's whole-sequence algorithm (43_xsr128.md R148), for `XSR_SEED_PADDED = false`. -/
def Obligations.X128SeedingIsX128Seed : Prop :=
  ∀ (m : List Byte) (rest : List Input) (s : State),
    s.inputs = sends (seedProgram .x128 m) ++ rest → s.entropyPending = false →
    s.params.xsrSeedPadded = false →
    runFor (m.length + 2) s = .next { s with
      x128 := { st := x128Seed m, h := fnv1a64 m + 2#64 * 0x9e3779b97f4a7c15#64, cnt := s.x128.cnt, ph := .ready }
      inputs := rest
      responses := List.replicate (m.length + 2) (bareResponse .ok) ++ s.responses }

/-- With the OPEN parameter `XSR_SEED_PADDED` true, both xor-shift-rotate engines hash the seed zero-padded to whole chunks
(92_eei_decisions.md D11). -/
def Obligations.PaddedSeedingHashesPaddedSeed : Prop :=
  ∀ (m : List Byte) (rest : List Input) (s : State), s.entropyPending = false → s.params.xsrSeedPadded = true →
    (s.inputs = sends (seedProgram .x256 m) ++ rest →
      ∃ t, runFor (m.length + 2) s = .next t ∧ t.x256.st = x256Seed (zeroPad m) ∧ t.x256.ph = .ready ∧
        t.responses = List.replicate (m.length + 2) (bareResponse .ok) ++ s.responses) ∧
    (s.inputs = sends (seedProgram .x128 m) ++ rest →
      ∃ t, runFor (m.length + 2) s = .next t ∧ t.x128.st = x128Seed (zeroPad m) ∧ t.x128.ph = .ready ∧
        t.responses = List.replicate (m.length + 2) (bareResponse .ok) ++ s.responses)

/-- The same seed gives the same outputs, whatever the block held before (40_seed_and_shared_functions.md R77). -/
def Obligations.SeededRunsRepeat : Prop :=
  ∀ (e : Engine) (m : List Byte) (k : Nat) (s t : State) (restS restT : List Input),
    s.inputs = sends (seedProgram e m ++ nextProgram e k) ++ restS →
    t.inputs = sends (seedProgram e m ++ nextProgram e k) ++ restT →
    s.entropyPending = false → t.entropyPending = false →
    s.params.xsrSeedPadded = t.params.xsrSeedPadded →
    ∃ s' t' given,
      runFor (m.length + 2 + k) s = .next s' ∧ runFor (m.length + 2 + k) t = .next t' ∧
      given.length = m.length + 2 + k ∧ (∀ r ∈ given, r.status = .ok) ∧
      s'.responses = given ++ s.responses ∧ t'.responses = given ++ t.responses

/-- `k` output steps of a constructed engine return the outputs of its successive states, newest first, and leave its `k`-th
successor (10_state.md R29, 70_reset_and_hazards.md R184). -/
def Obligations.NextStreams : Prop :=
  ∀ (k : Nat) (rest : List Input) (s : State), s.entropyPending = false →
    (s.inputs = sends (nextProgram .pcg k) ++ rest → s.pcg.ph = .ready →
      runFor k s = .next { s with
        pcg := { s.pcg with s := pcgLcg^[k] s.pcg.s }
        inputs := rest
        responses := ((List.range k).map fun j => pcgResponse (pcgLcg^[j] s.pcg.s)).reverse ++ s.responses }) ∧
    (s.inputs = sends (nextProgram .x256 k) ++ rest → s.x256.ph = .ready →
      runFor k s = .next { s with
        x256 := { s.x256 with st := x256Update^[k] s.x256.st }
        inputs := rest
        responses := ((List.range k).map fun j => x256Response (x256Update^[j] s.x256.st)).reverse ++ s.responses }) ∧
    (s.inputs = sends (nextProgram .x128 k) ++ rest → s.x128.ph = .ready →
      runFor k s = .next { s with
        x128 := { s.x128 with st := x128Update^[k] s.x128.st }
        inputs := rest
        responses := ((List.range k).map fun j => x128Response (x128Update^[j] s.x128.st)).reverse ++ s.responses })

/-- No command ever reads a register that has not been written since reset: two states that differ only in registers no command
can read in the engines' phases have the same runs, responses included (10_state.md R34, 70_reset_and_hazards.md R181). -/
def Obligations.UnwrittenRegistersUnread : Prop :=
  ∀ (k : Nat) (s t : State), agreeReadable s t →
    (∀ s', runFor k s = .next s' → ∃ t', runFor k t = .next t' ∧ agreeReadable s' t') ∧
    (∀ r, runFor k s = .fault r → runFor k t = .fault r)

/-- Every step keeps the invariant: `PCG.acc` holds zero where no byte has been received, and every response is one
the spec allows (10_state.md R21, 30_encoding.md R62, 92_eei_decisions.md D15). -/
def Obligations.StepKeepsInvariant : Prop :=
  ∀ s t : State, StateInv s → step s = .next t → StateInv t

/-- The state after reset meets the invariant. -/
def Obligations.ResetMeetsInvariant : Prop := StateInv State.reset

/-! ### The functions -/

/-- `F64Frac(N, P)` (40_seed_and_shared_functions.md R87): its fields, and its value exactly `N / 2^P`. -/
def Obligations.F64FracExact : Prop :=
  ∀ N P : Nat, P = 32 ∨ P = 52 → N < 2 ^ P →
    (N = 0 → f64Frac N P = 0x0000000000000000#64) ∧
    (∀ k : Nat, 2 ^ k ≤ N → N < 2 ^ (k + 1) →
      ((f64Frac N P).extractLsb' 52 11).toNat = 1023 - P + k ∧
      ((f64Frac N P).extractLsb' 0 52).toNat = (N - 2 ^ k) * 2 ^ (52 - k) ∧
      (f64Frac N P).getLsbD 63 = false) ∧
    f64Value (f64Frac N P) = some ((N : ℚ) / 2 ^ P)

/-- The range of results (40_seed_and_shared_functions.md R88): `0 <= v < 1`, with the least and the greatest pattern. -/
def Obligations.F64FracRange : Prop :=
  (∀ N P : Nat, P = 32 ∨ P = 52 → N < 2 ^ P →
    ∃ v : ℚ, f64Value (f64Frac N P) = some v ∧ 0 ≤ v ∧ v < 1) ∧
  (∀ N : Nat, N < 2 ^ 32 → (f64Frac N 32).toNat ≤ 0x3fefffffffe00000) ∧
  (∀ N : Nat, N < 2 ^ 52 → (f64Frac N 52).toNat ≤ 0x3feffffffffffffe) ∧
  f64Frac 0 32 = 0x0000000000000000#64 ∧ f64Frac 0 52 = 0x0000000000000000#64 ∧
  f64Frac (2 ^ 32 - 1) 32 = 0x3fefffffffe00000#64 ∧ f64Frac (2 ^ 52 - 1) 52 = 0x3feffffffffffffe#64

/-- The source's route to the 256-bit result (42_xsr256.md R121): the pattern `0x3ff0000000000000 | m` is a value in [1, 2), and
less 1.0 it is the value of `F64Frac(m, 52)`. -/
def Obligations.X256BitCastRoute : Prop :=
  ∀ q : Quad 64,
    let m := (q.s0 + q.s3) >>> 12
    ∃ v : ℚ, f64Value (0x3ff0000000000000#64 ||| m) = some v ∧ 1 ≤ v ∧ v < 2 ∧
      f64Value (f64Frac m.toNat 52) = some (v - 1)

/-- `PcgLcg` is a bijection without a fixed point, so every successful `PCG.NEXT` changes `PCG.s` and different states stay
different (41_pcg.md R113). -/
def Obligations.PcgLcgBijective : Prop :=
  Function.Bijective pcgLcg ∧ (∀ x, pcgLcg x ≠ x) ∧
  (∀ (k : Nat) (x y : Word64), x ≠ y → pcgLcg^[k] x ≠ pcgLcg^[k] y) ∧
  (∀ s : State, s.pcg.ph = .ready → ∃ t, exec .pcgNext s = .next t ∧ t.pcg.s ≠ s.pcg.s)

/-- The padding of `PCG` seeds (41_pcg.md R112): a trailing zero byte inside the last chunk cannot be seen, one that starts a
chunk can. -/
def Obligations.PcgPadding : Prop :=
  (∀ m : List Byte, m.length % 8 ≠ 0 → pcgSeed (m ++ [0x00#8]) = pcgSeed m) ∧
  (∀ m : List Byte, m.length % 8 = 0 →
    pcgSeed (m ++ [0x00#8]) = pcgLcg (pcgSeed m) ∧ pcgSeed (m ++ [0x00#8]) ≠ pcgSeed m) ∧
  pcgSeed [0x01#8] = 0x9fa7df8f9035c4bd#64 ∧ pcgSeed [0x01#8, 0x00#8] = 0x9fa7df8f9035c4bd#64 ∧
  pcgSeed (List.replicate 8 0x00#8) = pcgLcg 0xcafef00dd15ea5e5#64 ∧
  pcgSeed (List.replicate 8 0x00#8) = 0x4755eb6243a04590#64

/-- The default states (70_reset_and_hazards.md R182, 41_pcg.md R111). -/
def Obligations.DefaultStates : Prop :=
  pcgSeed [] = 0xcafef00dd15ea5e5#64 ∧
  x256Seed [] = ⟨0xc3817c016ba4ff30#64, 0x100cdaacc0bc9316#64, 0x54c3a569ecf61b1b#64, 0x2c65920724651c72#64⟩ ∧
  x128Seed [] = ⟨0x6ba4ff30#32, 0xc3817c01#32, 0xc0bc9316#32, 0x100cdaac#32⟩

/-- `Mix64` is a bijection that fixes 0, and the outputs of one expansion are pairwise distinct
(40_seed_and_shared_functions.md R89). -/
def Obligations.Mix64Bijective : Prop :=
  Function.Bijective mix64 ∧ (∀ x, mix64 x = 0#64 ↔ x = 0#64) ∧
  (∀ (h : Word64) (i j : Nat), i < 4 → j < 4 → i ≠ j →
    mix64 (h + BitVec.ofNat 64 (i + 1) * 0x9e3779b97f4a7c15#64) ≠
      mix64 (h + BitVec.ofNat 64 (j + 1) * 0x9e3779b97f4a7c15#64))

/-- The state update of `X256` is linear over xor and invertible (42_xsr256.md R129). -/
def Obligations.X256UpdateLinear : Prop :=
  (∀ a b : Quad 64,
    x256Update ⟨a.s0 ^^^ b.s0, a.s1 ^^^ b.s1, a.s2 ^^^ b.s2, a.s3 ^^^ b.s3⟩ =
      ⟨(x256Update a).s0 ^^^ (x256Update b).s0, (x256Update a).s1 ^^^ (x256Update b).s1,
        (x256Update a).s2 ^^^ (x256Update b).s2, (x256Update a).s3 ^^^ (x256Update b).s3⟩) ∧
  Function.Bijective x256Update

/-- The all-zero state of `X256` (42_xsr256.md R130): a fixed point of output zero, the image of no other state, reached only by
`X256.ENTROPY` with 32 zero bytes. -/
def Obligations.X256AllZero : Prop :=
  (∀ q : Quad 64, x256Update q = ⟨0#64, 0#64, 0#64, 0#64⟩ ↔ q = ⟨0#64, 0#64, 0#64, 0#64⟩) ∧
  (∀ s : State, s.x256.ph = .ready → s.x256.st = ⟨0#64, 0#64, 0#64, 0#64⟩ →
    exec .x256Next s = .next { s with responses := bareResponse .ok :: s.responses }) ∧
  (∀ m, x256Seed m ≠ ⟨0#64, 0#64, 0#64, 0#64⟩) ∧
  (∀ (i : Instr) (s t : State), exec i s = .next t → s.x256.st ≠ ⟨0#64, 0#64, 0#64, 0#64⟩ →
    t.x256.st = ⟨0#64, 0#64, 0#64, 0#64⟩ →
    i = .x256Entropy ∧ entropyReply 32 s = .bytes (List.replicate 32 0x00#8))

/-- The state update of `X128` is linear over xor and invertible; its output function is not linear (43_xsr128.md R149). -/
def Obligations.X128UpdateLinear : Prop :=
  (∀ a b : Quad 32,
    x128Update ⟨a.s0 ^^^ b.s0, a.s1 ^^^ b.s1, a.s2 ^^^ b.s2, a.s3 ^^^ b.s3⟩ =
      ⟨(x128Update a).s0 ^^^ (x128Update b).s0, (x128Update a).s1 ^^^ (x128Update b).s1,
        (x128Update a).s2 ^^^ (x128Update b).s2, (x128Update a).s3 ^^^ (x128Update b).s3⟩) ∧
  Function.Bijective x128Update ∧
  ¬ ∀ a b : Word32, x128Out (a ^^^ b) = x128Out a ^^^ x128Out b

/-- The all-zero state of `X128` (43_xsr128.md R150): a fixed point of output zero, the image of no other state, reached only by
`X128.ENTROPY` with 16 zero bytes. -/
def Obligations.X128AllZero : Prop :=
  (∀ q : Quad 32, x128Update q = ⟨0#32, 0#32, 0#32, 0#32⟩ ↔ q = ⟨0#32, 0#32, 0#32, 0#32⟩) ∧
  (∀ s : State, s.x128.ph = .ready → s.x128.st = ⟨0#32, 0#32, 0#32, 0#32⟩ →
    exec .x128Next s = .next { s with responses := bareResponse .ok :: s.responses }) ∧
  (∀ m, x128Seed m ≠ ⟨0#32, 0#32, 0#32, 0#32⟩) ∧
  (∀ (i : Instr) (s t : State), exec i s = .next t → s.x128.st ≠ ⟨0#32, 0#32, 0#32, 0#32⟩ →
    t.x128.st = ⟨0#32, 0#32, 0#32, 0#32⟩ →
    i = .x128Entropy ∧ entropyReply 16 s = .bytes (List.replicate 16 0x00#8))

/-- The two 64-bit values that seed `X128` are the first two state words of `X256` for the same seed, each split low half first
(43_xsr128.md R140, 20_memory.md R42). -/
def Obligations.X128SeedFromX256Seed : Prop :=
  ∀ m : List Byte,
    (x128Seed m).s1 ++ (x128Seed m).s0 = (x256Seed m).s0 ∧
    (x128Seed m).s3 ++ (x128Seed m).s2 = (x256Seed m).s1

/-! ### The host's side -/

/-- A command printed as `UNIT.OP` or `UNIT.OP 0xhh`, with any comment after it, assembles to that command
(30_encoding.md R67). -/
def Obligations.PrintedCommandAssembles : Prop :=
  ∀ (i : Instr) (comment : List Char),
    assembleLine (printInstr i) = some [i] ∧
    assembleLine (printInstr i ++ [' ', ';'] ++ comment) = some [i]

/-- The byte layout of `fromNumber` (40_seed_and_shared_functions.md R80): eight bytes, byte `i` being bits `8i+7:8i`. -/
def Obligations.FromNumberLittleEndian : Prop :=
  (∀ p : Word64,
    (seedFromNumber p).length = 8 ∧ (∀ i, i < 8 → (seedFromNumber p)[i]? = some (p.extractLsb' (8 * i) 8)) ∧
    BitVec.ofNat 64 (leSum (seedFromNumber p) 0 8) = p) ∧
  seedFromNumber 0x3ff0000000000000#64 = [0x00#8, 0x00#8, 0x00#8, 0x00#8, 0x00#8, 0x00#8, 0xf0#8, 0x3f#8]

/-! ### Binary64 patterns and their values -/

/-- The binary64 format (40_seed_and_shared_functions.md R86; the spec takes it from general knowledge, log 13): the value by sign,
exponent field and mantissa field, `+0.0`, and the patterns of the source, whose values lie in [1, 2). -/
def Obligations.F64ValueFormula : Prop :=
  (∀ (sign : Bool) (e : BitVec 11) (f : BitVec 52), 1 ≤ e.toNat → e.toNat ≤ 2046 →
    f64Value (BitVec.ofBool sign ++ e ++ f) =
      some ((-1) ^ sign.toNat * 2 ^ ((e.toNat : ℤ) - 1023) * (1 + (f.toNat : ℚ) / 2 ^ 52))) ∧
  f64Value 0x0000000000000000#64 = some 0 ∧
  (∀ f : BitVec 52, ∃ v : ℚ, f64Value (0x3ff0000000000000#64 ||| f.setWidth 64) = some v ∧ 1 ≤ v ∧ v < 2)

/-- `F64Value` and `F64Bits` (00_scope.md R16): every pattern but those of exponent field 2047 has a value; the pattern of a rational
has that rational as its value; the value of a pattern other than `-0.0` has that pattern; and `F64Frac(N, P)` is
`F64Bits(N / 2^P)` (40_seed_and_shared_functions.md R87). The values of subnormals, `none` for what has no value or no pattern, and
`+0.0` for 0 are the model's (log 13). -/
def Obligations.F64Conversions : Prop :=
  (∀ p : Word64, f64Value p = none ↔ p.extractLsb' 52 11 = 0x7ff#11) ∧
  (∀ (q : ℚ) (p : Word64), f64Bits q = some p → f64Value p = some q) ∧
  (∀ (q : ℚ) (p : Word64), f64Value p = some q → p ≠ 0x8000000000000000#64 → f64Bits q = some p) ∧
  f64Value 0x8000000000000000#64 = some 0 ∧
  (∀ N P : Nat, P = 32 ∨ P = 52 → N < 2 ^ P → f64Bits ((N : ℚ) / 2 ^ P) = some (f64Frac N P))
end

