-- ==== Sys2Proof/Laws/State.lean ====
section
/-! SUPPORT. One lemma per field and update, true by `rfl`, so that no proof unfolds a record update. -/

namespace Sys2Proof.Machine

@[simp] theorem respond_pcg (r : Response) (s : State) : (respond r s).pcg = s.pcg := rfl
@[simp] theorem respond_x256 (r : Response) (s : State) : (respond r s).x256 = s.x256 := rfl
@[simp] theorem respond_x128 (r : Response) (s : State) : (respond r s).x128 = s.x128 := rfl
@[simp] theorem respond_params (r : Response) (s : State) : (respond r s).params = s.params := rfl
@[simp] theorem respond_inputs (r : Response) (s : State) : (respond r s).inputs = s.inputs := rfl
@[simp] theorem respond_entropyReplies (r : Response) (s : State) : (respond r s).entropyReplies = s.entropyReplies := rfl
@[simp] theorem respond_entropyRequests (r : Response) (s : State) : (respond r s).entropyRequests = s.entropyRequests := rfl
@[simp] theorem respond_entropyPending (r : Response) (s : State) : (respond r s).entropyPending = s.entropyPending := rfl
@[simp] theorem respond_responses (r : Response) (s : State) : (respond r s).responses = r :: s.responses := rfl
@[simp] theorem respond_resets (r : Response) (s : State) : (respond r s).resets = s.resets := rfl

@[simp] theorem raise_pcg (c : Status) (s : State) : (raise c s).pcg = s.pcg := rfl
@[simp] theorem raise_x256 (c : Status) (s : State) : (raise c s).x256 = s.x256 := rfl
@[simp] theorem raise_x128 (c : Status) (s : State) : (raise c s).x128 = s.x128 := rfl
@[simp] theorem raise_params (c : Status) (s : State) : (raise c s).params = s.params := rfl
@[simp] theorem raise_inputs (c : Status) (s : State) : (raise c s).inputs = s.inputs := rfl
@[simp] theorem raise_entropyReplies (c : Status) (s : State) : (raise c s).entropyReplies = s.entropyReplies := rfl
@[simp] theorem raise_entropyRequests (c : Status) (s : State) : (raise c s).entropyRequests = s.entropyRequests := rfl
@[simp] theorem raise_entropyPending (c : Status) (s : State) : (raise c s).entropyPending = s.entropyPending := rfl
@[simp] theorem raise_responses (c : Status) (s : State) : (raise c s).responses = faultResponse c :: s.responses := rfl
@[simp] theorem raise_resets (c : Status) (s : State) : (raise c s).resets = s.resets := rfl

@[simp] theorem setPcg_pcg (r : PcgRegs) (s : State) : (s.setPcg r).pcg = r := rfl
@[simp] theorem setPcg_x256 (r : PcgRegs) (s : State) : (s.setPcg r).x256 = s.x256 := rfl
@[simp] theorem setPcg_x128 (r : PcgRegs) (s : State) : (s.setPcg r).x128 = s.x128 := rfl
@[simp] theorem setPcg_params (r : PcgRegs) (s : State) : (s.setPcg r).params = s.params := rfl
@[simp] theorem setPcg_inputs (r : PcgRegs) (s : State) : (s.setPcg r).inputs = s.inputs := rfl
@[simp] theorem setPcg_entropyReplies (r : PcgRegs) (s : State) : (s.setPcg r).entropyReplies = s.entropyReplies := rfl
@[simp] theorem setPcg_entropyRequests (r : PcgRegs) (s : State) : (s.setPcg r).entropyRequests = s.entropyRequests := rfl
@[simp] theorem setPcg_entropyPending (r : PcgRegs) (s : State) : (s.setPcg r).entropyPending = s.entropyPending := rfl
@[simp] theorem setPcg_responses (r : PcgRegs) (s : State) : (s.setPcg r).responses = s.responses := rfl
@[simp] theorem setPcg_resets (r : PcgRegs) (s : State) : (s.setPcg r).resets = s.resets := rfl

@[simp] theorem setX256_pcg (r : X256Regs) (s : State) : (s.setX256 r).pcg = s.pcg := rfl
@[simp] theorem setX256_x256 (r : X256Regs) (s : State) : (s.setX256 r).x256 = r := rfl
@[simp] theorem setX256_x128 (r : X256Regs) (s : State) : (s.setX256 r).x128 = s.x128 := rfl
@[simp] theorem setX256_params (r : X256Regs) (s : State) : (s.setX256 r).params = s.params := rfl
@[simp] theorem setX256_inputs (r : X256Regs) (s : State) : (s.setX256 r).inputs = s.inputs := rfl
@[simp] theorem setX256_entropyReplies (r : X256Regs) (s : State) : (s.setX256 r).entropyReplies = s.entropyReplies := rfl
@[simp] theorem setX256_entropyRequests (r : X256Regs) (s : State) : (s.setX256 r).entropyRequests = s.entropyRequests := rfl
@[simp] theorem setX256_entropyPending (r : X256Regs) (s : State) : (s.setX256 r).entropyPending = s.entropyPending := rfl
@[simp] theorem setX256_responses (r : X256Regs) (s : State) : (s.setX256 r).responses = s.responses := rfl
@[simp] theorem setX256_resets (r : X256Regs) (s : State) : (s.setX256 r).resets = s.resets := rfl

@[simp] theorem setX128_pcg (r : X128Regs) (s : State) : (s.setX128 r).pcg = s.pcg := rfl
@[simp] theorem setX128_x256 (r : X128Regs) (s : State) : (s.setX128 r).x256 = s.x256 := rfl
@[simp] theorem setX128_x128 (r : X128Regs) (s : State) : (s.setX128 r).x128 = r := rfl
@[simp] theorem setX128_params (r : X128Regs) (s : State) : (s.setX128 r).params = s.params := rfl
@[simp] theorem setX128_inputs (r : X128Regs) (s : State) : (s.setX128 r).inputs = s.inputs := rfl
@[simp] theorem setX128_entropyReplies (r : X128Regs) (s : State) : (s.setX128 r).entropyReplies = s.entropyReplies := rfl
@[simp] theorem setX128_entropyRequests (r : X128Regs) (s : State) : (s.setX128 r).entropyRequests = s.entropyRequests := rfl
@[simp] theorem setX128_entropyPending (r : X128Regs) (s : State) : (s.setX128 r).entropyPending = s.entropyPending := rfl
@[simp] theorem setX128_responses (r : X128Regs) (s : State) : (s.setX128 r).responses = s.responses := rfl
@[simp] theorem setX128_resets (r : X128Regs) (s : State) : (s.setX128 r).resets = s.resets := rfl

@[simp] theorem setInputs_pcg (l : List Input) (s : State) : (s.setInputs l).pcg = s.pcg := rfl
@[simp] theorem setInputs_x256 (l : List Input) (s : State) : (s.setInputs l).x256 = s.x256 := rfl
@[simp] theorem setInputs_x128 (l : List Input) (s : State) : (s.setInputs l).x128 = s.x128 := rfl
@[simp] theorem setInputs_params (l : List Input) (s : State) : (s.setInputs l).params = s.params := rfl
@[simp] theorem setInputs_inputs (l : List Input) (s : State) : (s.setInputs l).inputs = l := rfl
@[simp] theorem setInputs_entropyReplies (l : List Input) (s : State) : (s.setInputs l).entropyReplies = s.entropyReplies := rfl
@[simp] theorem setInputs_entropyRequests (l : List Input) (s : State) : (s.setInputs l).entropyRequests = s.entropyRequests := rfl
@[simp] theorem setInputs_entropyPending (l : List Input) (s : State) : (s.setInputs l).entropyPending = s.entropyPending := rfl
@[simp] theorem setInputs_responses (l : List Input) (s : State) : (s.setInputs l).responses = s.responses := rfl
@[simp] theorem setInputs_resets (l : List Input) (s : State) : (s.setInputs l).resets = s.resets := rfl

@[simp] theorem takeReply_pcg (s : State) : (takeReply s).pcg = s.pcg := rfl
@[simp] theorem takeReply_x256 (s : State) : (takeReply s).x256 = s.x256 := rfl
@[simp] theorem takeReply_x128 (s : State) : (takeReply s).x128 = s.x128 := rfl
@[simp] theorem takeReply_params (s : State) : (takeReply s).params = s.params := rfl
@[simp] theorem takeReply_inputs (s : State) : (takeReply s).inputs = s.inputs := rfl
@[simp] theorem takeReply_entropyReplies (s : State) : (takeReply s).entropyReplies = s.entropyReplies.tail := rfl
@[simp] theorem takeReply_entropyRequests (s : State) : (takeReply s).entropyRequests = s.entropyRequests + 1 := rfl
@[simp] theorem takeReply_entropyPending (s : State) : (takeReply s).entropyPending = s.entropyPending := rfl
@[simp] theorem takeReply_responses (s : State) : (takeReply s).responses = s.responses := rfl
@[simp] theorem takeReply_resets (s : State) : (takeReply s).resets = s.resets := rfl

@[simp] theorem hardReset_pcg (s : State) : (hardReset s).pcg = pcgAfterReset s.params s.resets := rfl
@[simp] theorem hardReset_x256 (s : State) : (hardReset s).x256 = x256AfterReset s.params s.resets := rfl
@[simp] theorem hardReset_x128 (s : State) : (hardReset s).x128 = x128AfterReset s.params s.resets := rfl
@[simp] theorem hardReset_params (s : State) : (hardReset s).params = s.params := rfl
@[simp] theorem hardReset_inputs (s : State) : (hardReset s).inputs = s.inputs := rfl
@[simp] theorem hardReset_entropyReplies (s : State) : (hardReset s).entropyReplies = s.entropyReplies := rfl
@[simp] theorem hardReset_entropyRequests (s : State) : (hardReset s).entropyRequests = s.entropyRequests := rfl
@[simp] theorem hardReset_responses (s : State) : (hardReset s).responses = s.responses := rfl
@[simp] theorem hardReset_entropyPending (s : State) : (hardReset s).entropyPending = false := rfl
@[simp] theorem hardReset_resets (s : State) : (hardReset s).resets = s.resets + 1 := rfl

end Sys2Proof.Machine
end

