-- ==== Sys2Proof/Laws/Ops.lean ====
section
/-! SUPPORT. What each shared operation can do, said once; proofs cite these lemmas instead of unfolding the operations. -/

namespace Sys2Proof.Machine

theorem inPhase_of_legal {o : Operation} {ph : Phase} {effect s : State} (h : legalIn o ph = true) :
    inPhase o ph effect s = .next effect := by simp [inPhase, h]

theorem inPhase_of_illegal {o : Operation} {ph : Phase} {effect s : State} (h : legalIn o ph = false) :
    inPhase o ph effect s = .next (raise .badPhase s) := by simp [inPhase, h]

/-- All that a command with a phase check can answer. -/
theorem inPhase_next {o : Operation} {ph : Phase} {effect s t : State} (h : inPhase o ph effect s = .next t) :
    (legalIn o ph = true ∧ t = effect) ∨ (legalIn o ph = false ∧ t = raise .badPhase s) := by
  cases hl : legalIn o ph
  · rw [inPhase_of_illegal hl] at h; exact .inr ⟨rfl, (Host.Outcome.next.inj h).symm⟩
  · rw [inPhase_of_legal hl] at h; exact .inl ⟨rfl, (Host.Outcome.next.inj h).symm⟩

theorem inPhase_answers (o : Operation) (ph : Phase) (effect s : State) :
    ∃ t, inPhase o ph effect s = .next t := by
  cases hl : legalIn o ph
  · exact ⟨_, inPhase_of_illegal hl⟩
  · exact ⟨_, inPhase_of_legal hl⟩

@[simp] theorem ofLength_fail (n : Nat) : ofLength n .fail = .fail := rfl

@[simp] theorem ofLength_silent (n : Nat) : ofLength n .silent = .silent := rfl

theorem ofLength_bytes_of_eq {n : Nat} {e : List Byte} (h : e.length = n) :
    ofLength n (.bytes e) = .bytes e := by simp [ofLength, h]

theorem ofLength_bytes_of_ne {n : Nat} {e : List Byte} (h : e.length ≠ n) :
    ofLength n (.bytes e) = .fail := by simp [ofLength, h]

/-- A reply with bytes has exactly as many as were asked for. -/
theorem ofLength_eq_bytes {n : Nat} {r : EntropyReply} {e : List Byte} (h : ofLength n r = .bytes e) :
    e.length = n := by
  cases r with
  | fail => cases h
  | silent => cases h
  | bytes d =>
    by_cases hd : d.length = n
    · rw [ofLength_bytes_of_eq hd] at h; cases h; exact hd
    · rw [ofLength_bytes_of_ne hd] at h; cases h

theorem entropyReply_of_cons {n : Nat} {s : State} {r : EntropyReply} {rest : List EntropyReply}
    (h : s.entropyReplies = r :: rest) : entropyReply n s = ofLength n r := by
  simp [entropyReply, h]

theorem entropyReply_of_nil {n : Nat} {s : State} (h : s.entropyReplies = []) :
    entropyReply n s = ofLength n (Config.freeEntropyReply n s.entropyRequests) := by
  simp [entropyReply, h]

theorem entropyReply_length {n : Nat} {s : State} {e : List Byte} (h : entropyReply n s = .bytes e) :
    e.length = n := by
  unfold entropyReply at h
  split at h <;> exact ofLength_eq_bytes h

theorem constructFromEntropy_bytes {n : Nat} {load : List Byte → State → State} {s : State} {e : List Byte}
    (h : entropyReply n s = .bytes e) :
    constructFromEntropy n load s = .next (respond okResponse (load e (takeReply s))) := by
  simp [constructFromEntropy, h]

theorem constructFromEntropy_fail {n : Nat} {load : List Byte → State → State} {s : State}
    (h : entropyReply n s = .fail) :
    constructFromEntropy n load s = .next (raise .entropyFail (takeReply s)) := by
  simp [constructFromEntropy, h]

theorem constructFromEntropy_silent {n : Nat} {load : List Byte → State → State} {s : State}
    (h : entropyReply n s = .silent) :
    constructFromEntropy n load s = .next { takeReply s with entropyPending := true } := by
  simp [constructFromEntropy, h]

/-- All that a construction from entropy can answer. -/
theorem constructFromEntropy_next {n : Nat} {load : List Byte → State → State} {s t : State}
    (h : constructFromEntropy n load s = .next t) :
    (∃ e, entropyReply n s = .bytes e ∧ t = respond okResponse (load e (takeReply s))) ∨
    (entropyReply n s = .fail ∧ t = raise .entropyFail (takeReply s)) ∨
    (entropyReply n s = .silent ∧ t = { takeReply s with entropyPending := true }) := by
  cases hr : entropyReply n s with
  | bytes e => rw [constructFromEntropy_bytes hr] at h; exact .inl ⟨e, rfl, (Host.Outcome.next.inj h).symm⟩
  | fail => rw [constructFromEntropy_fail hr] at h; exact .inr (.inl ⟨rfl, (Host.Outcome.next.inj h).symm⟩)
  | silent => rw [constructFromEntropy_silent hr] at h; exact .inr (.inr ⟨rfl, (Host.Outcome.next.inj h).symm⟩)

theorem constructFromEntropy_answers (n : Nat) (load : List Byte → State → State) (s : State) :
    ∃ t, constructFromEntropy n load s = .next t := ⟨_, rfl⟩

theorem acceptCommand_of_free {s : State} {run : Host.Outcome State Fault Refusal} (h : s.entropyPending = false) :
    acceptCommand s run = run := by simp [acceptCommand, h]

theorem acceptCommand_of_waiting {s : State} {run : Host.Outcome State Fault Refusal} (h : s.entropyPending = true) :
    acceptCommand s run = .fault .entropyNeverReplied := by simp [acceptCommand, h]

theorem step_of_nil {s : State} (h : s.inputs = []) : step s = acceptCommand s (.next s) := by
  simp only [step, h]

theorem step_of_word {s : State} {w : CmdWord} {rest : List Input} (h : s.inputs = .command w :: rest) :
    step s = acceptCommand s (runWord w (s.setInputs rest)) := by simp only [step, h]

theorem step_of_reset {s : State} {rest : List Input} (h : s.inputs = .reset :: rest) :
    step s = .next (hardReset (s.setInputs rest)) := by simp only [step, h]

theorem runWord_of_command {w : CmdWord} {i : Instr} (h : decode w = .command i) (s : State) :
    runWord w s = exec i s := by simp only [runWord, h]

theorem runWord_of_illegal {w : CmdWord} {why : IllegalWord} (h : decode w = .illegal why) (s : State) :
    runWord w s = .next (raise .illegalCmd s) := by simp only [runWord, h]

theorem runFor_zero (s : State) : runFor 0 s = .next s := rfl

theorem runFor_succ_of_next {k : Nat} {s t : State} (h : step s = .next t) : runFor (k + 1) s = runFor k t := by
  simp only [runFor, h]

theorem execAll_nil (s : State) : execAll [] s = .next s := rfl

theorem execAll_cons_of_next {i : Instr} {is : List Instr} {s t : State} (h : exec i s = .next t) :
    execAll (i :: is) s = execAll is t := by simp only [execAll, h]

end Sys2Proof.Machine
end

