-- ==== Sys2Proof/Laws/Exec.lean ====
section
/-! SUPPORT. The equation of every command over the shared operations, true by `rfl`; proofs rewrite with these and then cite
`Laws/Ops.lean`. -/

namespace Sys2Proof.Machine

theorem exec_pcgEntropy (s : State) :
    exec .pcgEntropy s = constructFromEntropy 8 (fun e t => t.setPcg (pcgLoad e t.pcg)) s := rfl

theorem exec_pcgSeedStart (s : State) :
    exec .pcgSeedStart s = .next (respond okResponse (s.setPcg (pcgStart s.pcg))) := rfl

theorem exec_pcgSeedByte (b : Byte) (s : State) :
    exec (.pcgSeedByte b) s =
      inPhase .seedByte s.pcg.ph (respond okResponse (s.setPcg (pcgByte b s.pcg))) s := rfl

theorem exec_pcgSeedEnd (s : State) :
    exec .pcgSeedEnd s = inPhase .seedEnd s.pcg.ph (respond okResponse (s.setPcg (pcgEnd s.pcg))) s := rfl

theorem exec_pcgNext (s : State) :
    exec .pcgNext s =
      inPhase .next s.pcg.ph (respond (pcgResponse s.pcg.s) (s.setPcg (pcgStep s.pcg))) s := rfl

theorem exec_x256Entropy (s : State) :
    exec .x256Entropy s = constructFromEntropy 32 (fun e t => t.setX256 (x256Load e t.x256)) s := rfl

theorem exec_x256SeedStart (s : State) :
    exec .x256SeedStart s = .next (respond okResponse (s.setX256 (x256Start s.params.xsrSeedPadded s.x256))) := rfl

theorem exec_x256SeedByte (b : Byte) (s : State) :
    exec (.x256SeedByte b) s =
      inPhase .seedByte s.x256.ph (respond okResponse (s.setX256 (x256Byte s.params.xsrSeedPadded b s.x256))) s := rfl

theorem exec_x256SeedEnd (s : State) :
    exec .x256SeedEnd s = inPhase .seedEnd s.x256.ph (respond okResponse (s.setX256 (x256End s.params.xsrSeedPadded s.x256))) s := rfl

theorem exec_x256Next (s : State) :
    exec .x256Next s =
      inPhase .next s.x256.ph (respond (x256Response s.x256.st) (s.setX256 (x256Step s.x256))) s := rfl

theorem exec_x128Entropy (s : State) :
    exec .x128Entropy s = constructFromEntropy 16 (fun e t => t.setX128 (x128Load e t.x128)) s := rfl

theorem exec_x128SeedStart (s : State) :
    exec .x128SeedStart s = .next (respond okResponse (s.setX128 (x128Start s.params.xsrSeedPadded s.x128))) := rfl

theorem exec_x128SeedByte (b : Byte) (s : State) :
    exec (.x128SeedByte b) s =
      inPhase .seedByte s.x128.ph (respond okResponse (s.setX128 (x128Byte s.params.xsrSeedPadded b s.x128))) s := rfl

theorem exec_x128SeedEnd (s : State) :
    exec .x128SeedEnd s = inPhase .seedEnd s.x128.ph (respond okResponse (s.setX128 (x128End s.params.xsrSeedPadded s.x128))) s := rfl

theorem exec_x128Next (s : State) :
    exec .x128Next s =
      inPhase .next s.x128.ph (respond (x128Response s.x128.st) (s.setX128 (x128Step s.x128))) s := rfl

end Sys2Proof.Machine
end

