-- ==== Sys2Proof/Laws/Registers.lean ====
section
/-! SUPPORT. What each register function leaves in each register: the functions are irreducible, so proofs rewrite with these and
never unfold them. -/

namespace Sys2Proof.Machine

@[simp] theorem pcgLoad_s (e : List Byte) (r : PcgRegs) : (pcgLoad e r).s = le64 e := by simp [pcgLoad]
@[simp] theorem pcgLoad_acc (e : List Byte) (r : PcgRegs) : (pcgLoad e r).acc = r.acc := by simp [pcgLoad]
@[simp] theorem pcgLoad_cnt (e : List Byte) (r : PcgRegs) : (pcgLoad e r).cnt = r.cnt := by simp [pcgLoad]
@[simp] theorem pcgLoad_ph (e : List Byte) (r : PcgRegs) : (pcgLoad e r).ph = .ready := by simp [pcgLoad]

theorem pcgStart_eq (r : PcgRegs) : pcgStart r = { s := pcgK0, acc := 0#64, cnt := 0#3, ph := .seeding } := by
  simp [pcgStart]
@[simp] theorem pcgStart_s (r : PcgRegs) : (pcgStart r).s = pcgK0 := by simp [pcgStart]
@[simp] theorem pcgStart_acc (r : PcgRegs) : (pcgStart r).acc = 0#64 := by simp [pcgStart]
@[simp] theorem pcgStart_cnt (r : PcgRegs) : (pcgStart r).cnt = 0#3 := by simp [pcgStart]
@[simp] theorem pcgStart_ph (r : PcgRegs) : (pcgStart r).ph = .seeding := by simp [pcgStart]

@[simp] theorem pcgByte_ph (b : Byte) (r : PcgRegs) : (pcgByte b r).ph = r.ph := by
  simp only [pcgByte]; split <;> rfl
theorem pcgByte_of_full {b : Byte} {r : PcgRegs} (h : r.cnt = 7#3) :
    pcgByte b r = { s := pcgAbsorb r.s (r.acc ||| (zext64 b <<< (8 * r.cnt.toNat))), acc := 0#64, cnt := 0#3, ph := r.ph } := by
  simp [pcgByte, h]
theorem pcgByte_of_room {b : Byte} {r : PcgRegs} (h : r.cnt ≠ 7#3) :
    pcgByte b r = { s := r.s, acc := r.acc ||| (zext64 b <<< (8 * r.cnt.toNat)), cnt := r.cnt + 1#3, ph := r.ph } := by
  simp [pcgByte, h]

@[simp] theorem pcgEnd_ph (r : PcgRegs) : (pcgEnd r).ph = .ready := by
  simp only [pcgEnd]; split <;> rfl
theorem pcgEnd_of_whole {r : PcgRegs} (h : r.cnt = 0#3) :
    pcgEnd r = { s := r.s, acc := r.acc, cnt := r.cnt, ph := .ready } := by simp [pcgEnd, h]
theorem pcgEnd_of_partial {r : PcgRegs} (h : r.cnt ≠ 0#3) :
    pcgEnd r = { s := pcgAbsorb r.s r.acc, acc := 0#64, cnt := 0#3, ph := .ready } := by simp [pcgEnd, h]

@[simp] theorem pcgStep_s (r : PcgRegs) : (pcgStep r).s = pcgLcg r.s := by simp [pcgStep]
@[simp] theorem pcgStep_acc (r : PcgRegs) : (pcgStep r).acc = r.acc := by simp [pcgStep]
@[simp] theorem pcgStep_cnt (r : PcgRegs) : (pcgStep r).cnt = r.cnt := by simp [pcgStep]
@[simp] theorem pcgStep_ph (r : PcgRegs) : (pcgStep r).ph = r.ph := by simp [pcgStep]

@[simp] theorem x256Load_st (e : List Byte) (r : X256Regs) : (x256Load e r).st = quad64OfBytes e := by
  simp [x256Load]
@[simp] theorem x256Load_h (e : List Byte) (r : X256Regs) : (x256Load e r).h = r.h := by
  simp [x256Load]
@[simp] theorem x256Load_cnt (e : List Byte) (r : X256Regs) : (x256Load e r).cnt = r.cnt := by
  simp [x256Load]
@[simp] theorem x256Load_ph (e : List Byte) (r : X256Regs) : (x256Load e r).ph = .ready := by
  simp [x256Load]

@[simp] theorem x256Start_st (p : Bool) (r : X256Regs) : (x256Start p r).st = r.st := by
  simp [x256Start]
@[simp] theorem x256Start_h (p : Bool) (r : X256Regs) : (x256Start p r).h = fnvBasis := by
  simp [x256Start]
@[simp] theorem x256Start_cnt (p : Bool) (r : X256Regs) : (x256Start p r).cnt = countByte p r.cnt 0#3 := by
  simp [x256Start]
@[simp] theorem x256Start_ph (p : Bool) (r : X256Regs) : (x256Start p r).ph = .seeding := by
  simp [x256Start]

@[simp] theorem x256Byte_st (p : Bool) (b : Byte) (r : X256Regs) : (x256Byte p b r).st = r.st := by
  simp [x256Byte]
@[simp] theorem x256Byte_h (p : Bool) (b : Byte) (r : X256Regs) : (x256Byte p b r).h = fnv1aStep r.h b := by
  simp [x256Byte]
@[simp] theorem x256Byte_cnt (p : Bool) (b : Byte) (r : X256Regs) : (x256Byte p b r).cnt = countByte p r.cnt (r.cnt + 1#3) := by
  simp [x256Byte]
@[simp] theorem x256Byte_ph (p : Bool) (b : Byte) (r : X256Regs) : (x256Byte p b r).ph = r.ph := by
  simp [x256Byte]

@[simp] theorem x256End_st (p : Bool) (r : X256Regs) : (x256End p r).st = (x256Expand (finishHash p r.cnt r.h)).1 := by
  simp [x256End]
@[simp] theorem x256End_h (p : Bool) (r : X256Regs) : (x256End p r).h = (x256Expand (finishHash p r.cnt r.h)).2 := by
  simp [x256End]
@[simp] theorem x256End_cnt (p : Bool) (r : X256Regs) : (x256End p r).cnt = r.cnt := by
  simp [x256End]
@[simp] theorem x256End_ph (p : Bool) (r : X256Regs) : (x256End p r).ph = .ready := by
  simp [x256End]

@[simp] theorem x256Step_st (r : X256Regs) : (x256Step r).st = x256Update r.st := by
  simp [x256Step]
@[simp] theorem x256Step_h (r : X256Regs) : (x256Step r).h = r.h := by
  simp [x256Step]
@[simp] theorem x256Step_cnt (r : X256Regs) : (x256Step r).cnt = r.cnt := by
  simp [x256Step]
@[simp] theorem x256Step_ph (r : X256Regs) : (x256Step r).ph = r.ph := by
  simp [x256Step]

@[simp] theorem x128Load_st (e : List Byte) (r : X128Regs) : (x128Load e r).st = quad32OfBytes e := by
  simp [x128Load]
@[simp] theorem x128Load_h (e : List Byte) (r : X128Regs) : (x128Load e r).h = r.h := by
  simp [x128Load]
@[simp] theorem x128Load_cnt (e : List Byte) (r : X128Regs) : (x128Load e r).cnt = r.cnt := by
  simp [x128Load]
@[simp] theorem x128Load_ph (e : List Byte) (r : X128Regs) : (x128Load e r).ph = .ready := by
  simp [x128Load]

@[simp] theorem x128Start_st (p : Bool) (r : X128Regs) : (x128Start p r).st = r.st := by
  simp [x128Start]
@[simp] theorem x128Start_h (p : Bool) (r : X128Regs) : (x128Start p r).h = fnvBasis := by
  simp [x128Start]
@[simp] theorem x128Start_cnt (p : Bool) (r : X128Regs) : (x128Start p r).cnt = countByte p r.cnt 0#3 := by
  simp [x128Start]
@[simp] theorem x128Start_ph (p : Bool) (r : X128Regs) : (x128Start p r).ph = .seeding := by
  simp [x128Start]

@[simp] theorem x128Byte_st (p : Bool) (b : Byte) (r : X128Regs) : (x128Byte p b r).st = r.st := by
  simp [x128Byte]
@[simp] theorem x128Byte_h (p : Bool) (b : Byte) (r : X128Regs) : (x128Byte p b r).h = fnv1aStep r.h b := by
  simp [x128Byte]
@[simp] theorem x128Byte_cnt (p : Bool) (b : Byte) (r : X128Regs) : (x128Byte p b r).cnt = countByte p r.cnt (r.cnt + 1#3) := by
  simp [x128Byte]
@[simp] theorem x128Byte_ph (p : Bool) (b : Byte) (r : X128Regs) : (x128Byte p b r).ph = r.ph := by
  simp [x128Byte]

@[simp] theorem x128End_st (p : Bool) (r : X128Regs) : (x128End p r).st = (x128Expand (finishHash p r.cnt r.h)).1 := by
  simp [x128End]
@[simp] theorem x128End_h (p : Bool) (r : X128Regs) : (x128End p r).h = (x128Expand (finishHash p r.cnt r.h)).2 := by
  simp [x128End]
@[simp] theorem x128End_cnt (p : Bool) (r : X128Regs) : (x128End p r).cnt = r.cnt := by
  simp [x128End]
@[simp] theorem x128End_ph (p : Bool) (r : X128Regs) : (x128End p r).ph = .ready := by
  simp [x128End]

@[simp] theorem x128Step_st (r : X128Regs) : (x128Step r).st = x128Update r.st := by
  simp [x128Step]
@[simp] theorem x128Step_h (r : X128Regs) : (x128Step r).h = r.h := by
  simp [x128Step]
@[simp] theorem x128Step_cnt (r : X128Regs) : (x128Step r).cnt = r.cnt := by
  simp [x128Step]
@[simp] theorem x128Step_ph (r : X128Regs) : (x128Step r).ph = r.ph := by
  simp [x128Step]

theorem pcgAfterReset_ph (p : Params) (k : Nat) :
    (pcgAfterReset p k).ph = if p.resetLoadsDefault then .ready else .idle := by
  unfold pcgAfterReset; split <;> simp [pcgUnspecified]
theorem x256AfterReset_ph (p : Params) (k : Nat) :
    (x256AfterReset p k).ph = if p.resetLoadsDefault then .ready else .idle := by
  unfold x256AfterReset; split <;> simp [x256Unspecified]
theorem x128AfterReset_ph (p : Params) (k : Nat) :
    (x128AfterReset p k).ph = if p.resetLoadsDefault then .ready else .idle := by
  unfold x128AfterReset; split <;> simp [x128Unspecified]

/-- The closed form of the `X256` expansion (40_seed_and_shared_functions.md R85). -/
theorem x256Expand_eq (h : Word64) :
    x256Expand h =
      (⟨mix64 (h + gamma), mix64 (h + gamma + gamma), mix64 (h + gamma + gamma + gamma),
        mix64 (h + gamma + gamma + gamma + gamma)⟩, h + gamma + gamma + gamma + gamma) := by
  simp [x256Expand, smNext]

/-- The closed form of the `X128` expansion (43_xsr128.md R140). -/
theorem x128Expand_eq (h : Word64) :
    x128Expand h =
      (⟨lo32 (mix64 (h + gamma)), hi32 (mix64 (h + gamma)), lo32 (mix64 (h + gamma + gamma)),
        hi32 (mix64 (h + gamma + gamma))⟩, h + gamma + gamma) := by
  simp [x128Expand, smNext]

@[simp] theorem pcgResponse_status (old : Word64) : (pcgResponse old).status = .ok := by simp [pcgResponse, nextResponse]
@[simp] theorem x256Response_status (q : Quad 64) : (x256Response q).status = .ok := by simp [x256Response, nextResponse]
@[simp] theorem x128Response_status (q : Quad 32) : (x128Response q).status = .ok := by simp [x128Response, nextResponse]

end Sys2Proof.Machine
end

