-- ==== Sys2Proof/Laws/Words.lean ====
section
/-! SUPPORT. Small facts about the word operations: rotations are the library's, little-endian assembly stays in range, a
padded length is the least multiple of 8, and the pattern of a result is a sum of its fields. -/

namespace Sys2Proof.Machine

theorem rotl_eq_rotateLeft {n : Nat} (v : BitVec n) {k : Nat} (h : k < n) : rotl v k = v.rotateLeft k := by
  by_cases hk : k = 0
  · subst hk; simp [rotl, BitVec.rotateLeft, BitVec.rotateLeftAux, BitVec.ushiftRight_eq_zero]
  · simp [rotl, hk, BitVec.rotateLeft, BitVec.rotateLeftAux, Nat.mod_eq_of_lt h]

theorem rotr_eq_rotateRight {n : Nat} (v : BitVec n) {k : Nat} (h : k < n) : rotr v k = v.rotateRight k := by
  by_cases hk : k = 0
  · subst hk; simp [rotr, BitVec.rotateRight, BitVec.rotateRightAux, BitVec.shiftLeft_eq_zero]
  · simp [rotr, hk, BitVec.rotateRight, BitVec.rotateRightAux, Nat.mod_eq_of_lt h]

theorem leNat_lt (e : List Byte) : leNat e < 2 ^ (8 * e.length) := by
  induction e with
  | nil => simp [leNat]
  | cons b bs ih =>
    have hb := b.isLt
    have hp : 2 ^ (8 * (bs.length + 1)) = 256 * 2 ^ (8 * bs.length) := by
      rw [show 8 * (bs.length + 1) = 8 + 8 * bs.length by ring, pow_add]; norm_num
    simp only [leNat, List.length_cons, hp]
    omega

theorem leNat_append (a b : List Byte) : leNat (a ++ b) = leNat a + 2 ^ (8 * a.length) * leNat b := by
  induction a with
  | nil => simp [leNat]
  | cons x xs ih =>
    have hp : 2 ^ (8 * (xs.length + 1)) = 256 * 2 ^ (8 * xs.length) := by
      rw [show 8 * (xs.length + 1) = 8 + 8 * xs.length by ring, pow_add]; norm_num
    simp only [List.cons_append, leNat, List.length_cons, hp, ih]
    ring

theorem leNat_zeros (k : Nat) : leNat (List.replicate k 0x00#8) = 0 := by
  induction k with
  | zero => rfl
  | succ k ih => simp [List.replicate_succ, leNat, ih]

theorem paddedLength_of_dvd {n : Nat} (h : n % 8 = 0) : paddedLength n = n := by
  simp only [paddedLength]; omega

theorem paddedLength_bounds (n : Nat) : n ≤ paddedLength n ∧ paddedLength n < n + 8 ∧ paddedLength n % 8 = 0 := by
  simp only [paddedLength]; omega

theorem zeroPad_length (m : List Byte) : (zeroPad m).length = paddedLength m.length := by
  have h := paddedLength_bounds m.length
  simp only [zeroPad, List.length_append, List.length_replicate]
  omega

/-- The fields of a result's pattern do not overlap: the pattern is their sum. -/
theorem f64Frac_toNat {N P : Nat} (h0 : N ≠ 0) (hP : P ≤ 52) (hN : N < 2 ^ P) :
    (f64Frac N P).toNat = (1023 - P + N.log2) * 2 ^ 52 + (N - 2 ^ N.log2) * 2 ^ (52 - N.log2) := by
  have hk : N.log2 < P := (Nat.log2_lt h0).2 hN
  have hlo : 2 ^ N.log2 ≤ N := Nat.log2_self_le h0
  have hhi : N < 2 ^ N.log2 * 2 := by
    have h := (Nat.log2_lt (k := N.log2 + 1) h0).1 (Nat.lt_succ_self _)
    rwa [pow_succ] at h
  have hsplit : 2 ^ N.log2 * 2 ^ (52 - N.log2) = 2 ^ 52 := by rw [← pow_add]; congr 1; omega
  have hf : (N - 2 ^ N.log2) * 2 ^ (52 - N.log2) < 2 ^ 52 := by
    rw [← hsplit]
    exact Nat.mul_lt_mul_of_pos_right (by omega) (by positivity)
  simp only [f64Frac, h0, if_false, Nat.shiftLeft_eq, BitVec.toNat_ofNat]
  rw [Nat.mul_comm _ (2 ^ 52), ← Nat.two_pow_add_eq_or_of_lt hf, Nat.mod_eq_of_lt]
  have he : 1023 - P + N.log2 < 1023 := by omega
  have : 2 ^ 52 * (1023 - P + N.log2) + 2 ^ 52 ≤ 2 ^ 52 * 1023 := by
    rw [← Nat.mul_succ]; exact Nat.mul_le_mul_left _ he
  omega

theorem f64Frac_zero (P : Nat) : f64Frac 0 P = 0#64 := by simp [f64Frac]

theorem slice_succ (e : List Byte) (off n : Nat) :
    slice e off (n + 1) = if off < e.length then e.getD off 0#8 :: slice e (off + 1) n else [] := by
  unfold slice
  split_ifs with h
  · rw [List.drop_eq_getElem_cons h, List.take_succ_cons]; simp [List.getD, h]
  · rw [List.drop_eq_nil_of_le (Nat.le_of_not_lt h), List.take_nil]

/-- The sum of 00_scope.md R13 is the model's little-endian number of a slice. -/
theorem leSum_eq_leNat (e : List Byte) (off n : Nat) : leSum e off n = leNat (slice e off n) := by
  induction n generalizing off with
  | zero => simp [leSum, slice, leNat]
  | succ n ih =>
    rw [slice_succ]
    split_ifs with h
    · have hs : leSum e off (n + 1) = (e.getD off 0#8).toNat + 256 * leSum e (off + 1) n := by
        unfold leSum
        rw [Finset.sum_range_succ', Finset.mul_sum, Nat.add_comm]
        congr 1
        · simp
        · refine Finset.sum_congr rfl fun k _ => ?_
          rw [show off + (k + 1) = off + 1 + k by ring, show 8 * (k + 1) = 8 * k + 8 by ring, pow_add]
          ring
      rw [hs, ih]
      rfl
    · refine Finset.sum_eq_zero fun k _ => ?_
      have hz : e.getD (off + k) 0#8 = 0#8 := by
        simp [List.getD, List.getElem?_eq_none (show e.length ≤ off + k by omega)]
      rw [hz]; simp

theorem word32_zext_toNat (x : Word32) : (x.setWidth 64).toNat = x.toNat := by
  rw [BitVec.toNat_setWidth, Nat.mod_eq_of_lt]
  have := x.isLt
  omega

theorem x256Mantissa_lt (q : Quad 64) : (x256Mantissa q).toNat < 2 ^ 52 := by
  have := (q.s0 + q.s3).isLt
  simp only [x256Mantissa, BitVec.toNat_ushiftRight, Nat.shiftRight_eq_div_pow]
  omega

theorem quad_eq {w : Nat} {a b : Quad w} (h0 : a.s0 = b.s0) (h1 : a.s1 = b.s1) (h2 : a.s2 = b.s2) (h3 : a.s3 = b.s3) :
    a = b := by
  obtain ⟨a0, a1, a2, a3⟩ := a
  obtain ⟨b0, b1, b2, b3⟩ := b
  simp only at h0 h1 h2 h3
  rw [h0, h1, h2, h3]

/-- The parallel form of the `X256` update (42_xsr256.md R122). -/
theorem x256Update_parallel (q : Quad 64) :
    x256Update q = ⟨q.s0 ^^^ q.s1 ^^^ q.s3, q.s0 ^^^ q.s1 ^^^ q.s2, q.s0 ^^^ q.s2 ^^^ (q.s1 <<< 17),
      (q.s1 ^^^ q.s3).rotateLeft 45⟩ := by
  have hrot : rotl (q.s3 ^^^ q.s1) 45 = (q.s1 ^^^ q.s3).rotateLeft 45 := by
    rw [rotl_eq_rotateLeft _ (show 45 < 64 by norm_num), BitVec.xor_comm]
  unfold x256Update
  refine quad_eq ?_ ?_ ?_ hrot
  · show q.s0 ^^^ (q.s3 ^^^ q.s1) = _
    rw [BitVec.xor_comm q.s3, BitVec.xor_assoc]
  · show q.s1 ^^^ (q.s2 ^^^ q.s0) = _
    rw [BitVec.xor_comm q.s2, ← BitVec.xor_assoc, BitVec.xor_comm q.s1]
  · show q.s2 ^^^ q.s0 ^^^ (q.s1 <<< 17) = _
    rw [BitVec.xor_comm q.s2]

/-- The parallel form of the `X128` update (43_xsr128.md R142). -/
theorem x128Update_parallel (q : Quad 32) :
    x128Update q = ⟨q.s0 ^^^ q.s1 ^^^ q.s3, q.s0 ^^^ q.s1 ^^^ q.s2, q.s0 ^^^ q.s2 ^^^ (q.s1 <<< 9),
      (q.s1 ^^^ q.s3).rotateLeft 11⟩ := by
  have hrot : rotl (q.s3 ^^^ q.s1) 11 = (q.s1 ^^^ q.s3).rotateLeft 11 := by
    rw [rotl_eq_rotateLeft _ (show 11 < 32 by norm_num), BitVec.xor_comm]
  unfold x128Update
  refine quad_eq ?_ ?_ ?_ hrot
  · show q.s0 ^^^ (q.s3 ^^^ q.s1) = _
    rw [BitVec.xor_comm q.s3, BitVec.xor_assoc]
  · show q.s1 ^^^ (q.s2 ^^^ q.s0) = _
    rw [BitVec.xor_comm q.s2, ← BitVec.xor_assoc, BitVec.xor_comm q.s1]
  · show q.s2 ^^^ q.s0 ^^^ (q.s1 <<< 9) = _
    rw [BitVec.xor_comm q.s2]

end Sys2Proof.Machine
end

