-- ==== Sys2Proof/Laws/Invariant.lean ====
section
/-! SUPPORT. How the invariant and the agreement of readable registers pass through each shared operation, so that a proof about
every command never compares two states by unfolding them. -/

namespace Sys2Proof.Machine

theorem bareResponse_wellFormed (c : Status) : (bareResponse c).wellFormed :=
  ⟨by simp [bareResponse], .inl ⟨by simp [bareResponse], (f64Frac_zero 32).symm⟩⟩

theorem okResponse_eq_bare : okResponse = bareResponse .ok := rfl

theorem faultResponse_eq_bare (c : Status) : faultResponse c = bareResponse c := rfl

theorem nextResponse_wellFormed_32 (x : Word32) : (nextResponse (x.setWidth 64) 32).wellFormed := by
  refine ⟨by simp [nextResponse], .inl ⟨?_, rfl⟩⟩
  simp only [nextResponse, word32_zext_toNat]
  exact x.isLt

theorem pcgResponse_wellFormed (old : Word64) : (pcgResponse old).wellFormed := by
  rw [pcgResponse]; exact nextResponse_wellFormed_32 _

theorem x128Response_wellFormed (q : Quad 32) : (x128Response q).wellFormed := by
  rw [x128Response]; exact nextResponse_wellFormed_32 _

theorem x256Response_wellFormed (q : Quad 64) : (x256Response q).wellFormed :=
  ⟨by simp, .inr (by rw [x256Response]; exact ⟨x256Mantissa_lt q, rfl⟩)⟩

theorem stateInv_iff (s : State) :
    StateInv s ↔ (s.pcg.ph = .seeding → s.pcg.acc.toNat < 2 ^ (8 * s.pcg.cnt.toNat)) ∧
      ∀ r ∈ s.responses, r.wellFormed := Iff.rfl

theorem stateInv_congr {s t : State} (hp : s.pcg = t.pcg) (hr : s.responses = t.responses) :
    StateInv s ↔ StateInv t := by rw [stateInv_iff, stateInv_iff, hp, hr]

theorem stateInv_respond {s : State} {r : Response} (h : StateInv s) (hr : r.wellFormed) : StateInv (respond r s) := by
  refine ⟨h.1, fun x hx => ?_⟩
  rw [respond_responses, List.mem_cons] at hx
  rcases hx with rfl | hx
  · exact hr
  · exact h.2 x hx

theorem stateInv_raise {s : State} {c : Status} (h : StateInv s) : StateInv (raise c s) :=
  stateInv_respond h (bareResponse_wellFormed c)

theorem stateInv_setPcg {s : State} {r : PcgRegs} (h : StateInv s)
    (hr : r.ph = .seeding → r.acc.toNat < 2 ^ (8 * r.cnt.toNat)) : StateInv (s.setPcg r) := ⟨hr, h.2⟩

theorem stateInv_setX256 {s : State} {r : X256Regs} (h : StateInv s) : StateInv (s.setX256 r) :=
  (stateInv_congr (setX256_pcg r s) (setX256_responses r s)).2 h

theorem stateInv_setX128 {s : State} {r : X128Regs} (h : StateInv s) : StateInv (s.setX128 r) :=
  (stateInv_congr (setX128_pcg r s) (setX128_responses r s)).2 h

theorem stateInv_setInputs {s : State} {l : List Input} (h : StateInv s) : StateInv (s.setInputs l) :=
  (stateInv_congr (setInputs_pcg l s) (setInputs_responses l s)).2 h

theorem stateInv_takeReply {s : State} (h : StateInv s) : StateInv (takeReply s) :=
  (stateInv_congr (takeReply_pcg s) (takeReply_responses s)).2 h

theorem agreeReadable_respond {s t : State} {r : Response} (h : agreeReadable s t) :
    agreeReadable (respond r s) (respond r t) := by
  obtain ⟨h1, h2, h3, h4, h5, h6, h7, h8, h9, h10⟩ := h
  exact ⟨h1, h2, h3, h4, h5, h6, h7, h8, by rw [respond_responses, respond_responses, h9], h10⟩

theorem agreeReadable_setPcg {s t : State} {a b : PcgRegs} (h : agreeReadable s t) (hab : a.agree b) :
    agreeReadable (s.setPcg a) (t.setPcg b) := ⟨hab, h.2⟩

theorem agreeReadable_setX256 {s t : State} {a b : X256Regs} (h : agreeReadable s t)
    (hab : a.agree s.params.xsrSeedPadded b) : agreeReadable (s.setX256 a) (t.setX256 b) := ⟨h.1, hab, h.2.2⟩

theorem agreeReadable_setX128 {s t : State} {a b : X128Regs} (h : agreeReadable s t)
    (hab : a.agree s.params.xsrSeedPadded b) : agreeReadable (s.setX128 a) (t.setX128 b) :=
  ⟨h.1, h.2.1, hab, h.2.2.2⟩

theorem agreeReadable_setInputs {s t : State} {l : List Input} (h : agreeReadable s t) :
    agreeReadable (s.setInputs l) (t.setInputs l) := by
  obtain ⟨h1, h2, h3, h4, -, h6, h7, h8, h9, h10⟩ := h
  exact ⟨h1, h2, h3, h4, rfl, h6, h7, h8, h9, h10⟩

theorem agreeReadable_takeReply {s t : State} (h : agreeReadable s t) : agreeReadable (takeReply s) (takeReply t) := by
  obtain ⟨h1, h2, h3, h4, h5, h6, h7, h8, h9, h10⟩ := h
  exact ⟨h1, h2, h3, h4, h5, by rw [takeReply_entropyReplies, takeReply_entropyReplies, h6],
    by rw [takeReply_entropyRequests, takeReply_entropyRequests, h7], h8, h9, h10⟩

theorem entropyReply_congr {s t : State} (n : Nat) (hl : s.entropyReplies = t.entropyReplies)
    (hc : s.entropyRequests = t.entropyRequests) : entropyReply n s = entropyReply n t := by
  simp only [entropyReply, hl, hc]

end Sys2Proof.Machine
end

