-- ==== Sys2Proof/Laws/PerInstr.lean ====
section
/-! SUPPORT. Facts about every command as syntax, one lemma for each constructor. -/

namespace Sys2Proof.Laws.Encoding

/-- The fields of a command's word pass the four checks of 30_encoding.md R65, and its engine and operation are read back
from their codes. -/
def Statement (i : Instr) : Prop :=
  i.fields.wellFormed = true ∧
  engineOf i.fields.unit = some i.engine ∧
  operationOf i.fields.op = some i.operation

theorem pcgEntropy : Statement .pcgEntropy := ⟨rfl, rfl, rfl⟩
theorem pcgSeedStart : Statement .pcgSeedStart := ⟨rfl, rfl, rfl⟩
theorem pcgSeedByte (b : Byte) : Statement (.pcgSeedByte b) := ⟨rfl, rfl, rfl⟩
theorem pcgSeedEnd : Statement .pcgSeedEnd := ⟨rfl, rfl, rfl⟩
theorem pcgNext : Statement .pcgNext := ⟨rfl, rfl, rfl⟩
theorem x256Entropy : Statement .x256Entropy := ⟨rfl, rfl, rfl⟩
theorem x256SeedStart : Statement .x256SeedStart := ⟨rfl, rfl, rfl⟩
theorem x256SeedByte (b : Byte) : Statement (.x256SeedByte b) := ⟨rfl, rfl, rfl⟩
theorem x256SeedEnd : Statement .x256SeedEnd := ⟨rfl, rfl, rfl⟩
theorem x256Next : Statement .x256Next := ⟨rfl, rfl, rfl⟩
theorem x128Entropy : Statement .x128Entropy := ⟨rfl, rfl, rfl⟩
theorem x128SeedStart : Statement .x128SeedStart := ⟨rfl, rfl, rfl⟩
theorem x128SeedByte (b : Byte) : Statement (.x128SeedByte b) := ⟨rfl, rfl, rfl⟩
theorem x128SeedEnd : Statement .x128SeedEnd := ⟨rfl, rfl, rfl⟩
theorem x128Next : Statement .x128Next := ⟨rfl, rfl, rfl⟩

end Sys2Proof.Laws.Encoding
end

