-- ==== Sys2Proof/Laws/Result.lean ====
section
/-! SUPPORT. What the conversions between binary64 patterns and rationals answer, from the fields of a pattern; proofs cite these
and never unfold `f64Value` or `f64Bits`. -/

namespace Sys2Proof.Machine

theorem f64Magnitude_subnormal (f : Nat) : f64Magnitude 0 f = f / 2 ^ 1074 := by simp [f64Magnitude]

theorem f64Magnitude_normal {e : Nat} (h : e ≠ 0) (f : Nat) :
    f64Magnitude e f = 2 ^ e / 2 ^ 1023 * (1 + f / 2 ^ 52) := by simp [f64Magnitude, h]

/-- Every size is a whole number of `2^-1074`: the mantissa with its leading one, shifted by the exponent field less 1. -/
theorem f64Magnitude_scaled {e : Nat} (h : e ≠ 0) (f : Nat) :
    f64Magnitude e f = (((2 ^ 52 + f) * 2 ^ (e - 1) : Nat) : ℚ) / 2 ^ 1074 := by
  obtain ⟨d, rfl⟩ : ∃ d, e = d + 1 := ⟨e - 1, by omega⟩
  rw [f64Magnitude_normal h, show (2 : ℚ) ^ 1074 = 2 ^ 1023 * 2 ^ 51 from (pow_add 2 1023 51)]
  simp only [Nat.add_sub_cancel]
  push_cast
  have h1023 : (2 : ℚ) ^ 1023 ≠ 0 := pow_ne_zero _ two_ne_zero
  generalize (2 : ℚ) ^ 1023 = c at *
  rw [pow_succ]
  field_simp
  ring

theorem f64Magnitude_nonneg (e f : Nat) : 0 ≤ f64Magnitude e f := by
  unfold f64Magnitude; split <;> positivity

/-- The value of a pattern by its three fields. -/
theorem f64Value_eq (p : Word64) :
    f64Value p =
      if (p.extractLsb' 52 11).toNat = 2047 then none
      else some (if p.getLsbD 63 then -f64Magnitude (p.extractLsb' 52 11).toNat (p.extractLsb' 0 52).toNat
        else f64Magnitude (p.extractLsb' 52 11).toNat (p.extractLsb' 0 52).toNat) := by
  simp only [f64Value]

/-- The value of a pattern by its number: the sign at bit 63 and the two fields below it. -/
theorem f64Value_of_toNat {p : Word64} {n : Nat} {sign : Bool} (hn : n < 2047 * 2 ^ 52)
    (hp : p.toNat = if sign then 2 ^ 63 + n else n) :
    f64Value p =
      some (if sign then -f64Magnitude (n / 2 ^ 52) (n % 2 ^ 52) else f64Magnitude (n / 2 ^ 52) (n % 2 ^ 52)) := by
  have he : (p.extractLsb' 52 11).toNat = n / 2 ^ 52 := by
    rw [BitVec.extractLsb'_toNat, hp, Nat.shiftRight_eq_div_pow]; cases sign <;> simp <;> omega
  have hf : (p.extractLsb' 0 52).toNat = n % 2 ^ 52 := by
    rw [BitVec.extractLsb'_toNat, hp, Nat.shiftRight_eq_div_pow]; cases sign <;> simp
    omega
  have hs : p.getLsbD 63 = sign := by
    rw [BitVec.getLsbD, hp, Nat.testBit_eq_decide_div_mod_eq]; cases sign <;> simp <;> omega
  rw [f64Value_eq, he, hf, hs, if_neg (by omega)]

/-- `f64Unsigned` answers the fields of a finite pattern of the given size, and only that. -/
theorem f64Unsigned_spec {m n : Nat} (h : f64Unsigned m = some n) :
    n < 2047 * 2 ^ 52 ∧ (m : ℚ) / 2 ^ 1074 = f64Magnitude (n / 2 ^ 52) (n % 2 ^ 52) := by
  unfold f64Unsigned at h
  split at h
  · rename_i hm
    obtain rfl : m = n := by simpa using h
    rw [Nat.div_eq_of_lt hm, Nat.mod_eq_of_lt hm, f64Magnitude_subnormal]
    exact ⟨by omega, rfl⟩
  · rename_i hm
    simp only at h
    split at h
    · rename_i hk
      have hm0 : m ≠ 0 := by rintro rfl; simp at hm
      have hk52 : 52 ≤ m.log2 := (Nat.le_log2 hm0).2 (by omega)
      have hlo := Nat.log2_self_le hm0
      have hhi : m < 2 ^ (m.log2 + 1) := Nat.lt_log2_self
      generalize m.log2 = k at *
      obtain ⟨d, rfl⟩ : ∃ d, k = d + 52 := ⟨k - 52, by omega⟩
      rw [show d + 52 - 52 = d by omega, show d + 52 - 51 = d + 1 by omega] at *
      have hc : m = m / 2 ^ d * 2 ^ d := by
        rw [Nat.mul_comm]; have := Nat.div_add_mod m (2 ^ d); omega
      generalize hq : m / 2 ^ d = c at *
      have hpos : 0 < 2 ^ d := by positivity
      have hclo : 2 ^ 52 ≤ c := by
        rw [hc, pow_add, Nat.mul_comm] at hlo; exact Nat.le_of_mul_le_mul_right hlo hpos
      have hchi : c < 2 ^ 53 := by
        rw [hc, show d + 52 + 1 = 53 + d by omega, pow_add] at hhi; exact Nat.lt_of_mul_lt_mul_right hhi
      obtain rfl : (d + 1) * 2 ^ 52 + (c - 2 ^ 52) = n := by simpa using h
      have e1 : ((d + 1) * 2 ^ 52 + (c - 2 ^ 52)) / 2 ^ 52 = d + 1 := by omega
      have e2 : ((d + 1) * 2 ^ 52 + (c - 2 ^ 52)) % 2 ^ 52 = c - 2 ^ 52 := by omega
      refine ⟨by omega, ?_⟩
      rw [e1, e2, f64Magnitude_scaled (by omega), hc, Nat.add_sub_cancel, show 2 ^ 52 + (c - 2 ^ 52) = c by omega]
    · cases h

/-- `f64Unsigned` finds the fields of every finite pattern from its size. -/
theorem f64Unsigned_of_fields {m n : Nat} (hn : n < 2047 * 2 ^ 52)
    (h : (m : ℚ) / 2 ^ 1074 = f64Magnitude (n / 2 ^ 52) (n % 2 ^ 52)) : f64Unsigned m = some n := by
  have h0 : (2 : ℚ) ^ 1074 ≠ 0 := pow_ne_zero _ two_ne_zero
  have hf : n % 2 ^ 52 < 2 ^ 52 := Nat.mod_lt _ (by positivity)
  have hs := Nat.div_add_mod n (2 ^ 52)
  by_cases he : n / 2 ^ 52 = 0
  · rw [he, f64Magnitude_subnormal, div_left_inj' h0] at h
    have hm : m = n % 2 ^ 52 := by exact_mod_cast h
    rw [f64Unsigned, if_pos (by omega)]
    congr 1
    omega
  · rw [f64Magnitude_scaled he, div_left_inj' h0] at h
    have hm : m = (2 ^ 52 + n % 2 ^ 52) * 2 ^ (n / 2 ^ 52 - 1) := by exact_mod_cast h
    obtain ⟨d, hd⟩ : ∃ d, n / 2 ^ 52 = d + 1 := ⟨n / 2 ^ 52 - 1, by omega⟩
    rw [hd, Nat.add_sub_cancel] at hm
    generalize n % 2 ^ 52 = f at *
    have hpos : 1 ≤ 2 ^ d := Nat.one_le_two_pow
    have hlo : 2 ^ (d + 52) ≤ m := by
      rw [hm, pow_add, Nat.mul_comm]; exact Nat.mul_le_mul_right _ (by omega)
    have hhi : m < 2 ^ (d + 52 + 1) := by
      rw [hm, show d + 52 + 1 = 53 + d by omega, pow_add]
      exact Nat.mul_lt_mul_of_pos_right (by omega) hpos
    have hm0 : m ≠ 0 := by rintro rfl; exact absurd hlo (Nat.not_le.2 (by positivity))
    have hk : m.log2 = d + 52 := by
      have a := (Nat.le_log2 hm0).2 hlo
      have b := (Nat.log2_lt hm0).2 hhi
      omega
    have hbig : ¬ m < 2 ^ 52 := by
      have : 2 ^ 52 ≤ 2 ^ (d + 52) := Nat.pow_le_pow_right (by omega) (by omega)
      omega
    rw [f64Unsigned, if_neg hbig]
    simp only [hk, show d + 52 - 52 = d by omega, show d + 52 - 51 = d + 1 by omega]
    rw [if_pos ⟨by rw [hm, Nat.mul_mod_left], by omega⟩, hm, Nat.mul_div_cancel _ hpos]
    have : (d + 1) * 2 ^ 52 + (2 ^ 52 + f - 2 ^ 52) = n := by omega
    rw [this]

end Sys2Proof.Machine
end

