-- ==== Sys2Proof/Tests/Slice0.lean ====
section
/-! SUPPORT. Tests. Expected results are the spec's: words written out from the encoding of 30_encoding.md R55 to R58, vectors of
95_test_vectors.md and the examples of the command rules. The last part holds one witness for each statement that has
hypotheses. -/

namespace Sys2Proof.Tests

set_option Elab.async false

open Sys2Proof.Machine

/-! ### Ill-formed fields are refused, one for each check of `WellFormed.lean` -/

theorem test_wellFormed_rsv : (CommandFields.mk 0b001#3 0b00#2 0b101#3 0x00#8).wellFormed = false := by decide
theorem test_wellFormed_unit : (CommandFields.mk 0b000#3 0b11#2 0b101#3 0x00#8).wellFormed = false := by decide
theorem test_wellFormed_op : (CommandFields.mk 0b000#3 0b01#2 0b110#3 0x00#8).wellFormed = false := by decide
theorem test_wellFormed_imm : (CommandFields.mk 0b000#3 0b10#2 0b101#3 0x01#8).wellFormed = false := by decide
theorem test_wellFormed_byte : (CommandFields.mk 0b000#3 0b10#2 0b011#3 0xff#8).wellFormed = true := by decide

/-! ### Decoding, every row written out bit by bit (rsv, unit, op, imm8) -/

theorem test_decode_pcgEntropy : decode 0b0000000100000000#16 = .command .pcgEntropy := by decide
theorem test_decode_pcgSeedStart : decode 0b0000001000000000#16 = .command .pcgSeedStart := by decide
theorem test_decode_pcgSeedByte : decode 0b0000001110100101#16 = .command (.pcgSeedByte 0xa5#8) := by decide
theorem test_decode_pcgSeedEnd : decode 0b0000010000000000#16 = .command .pcgSeedEnd := by decide
theorem test_decode_pcgNext : decode 0b0000010100000000#16 = .command .pcgNext := by decide
theorem test_decode_x256Entropy : decode 0b0000100100000000#16 = .command .x256Entropy := by decide
theorem test_decode_x256SeedStart : decode 0b0000101000000000#16 = .command .x256SeedStart := by decide
theorem test_decode_x256SeedByte : decode 0b0000101101100001#16 = .command (.x256SeedByte 0x61#8) := by decide
theorem test_decode_x256SeedEnd : decode 0b0000110000000000#16 = .command .x256SeedEnd := by decide
theorem test_decode_x256Next : decode 0b0000110100000000#16 = .command .x256Next := by decide
theorem test_decode_x128Entropy : decode 0b0001000100000000#16 = .command .x128Entropy := by decide
theorem test_decode_x128SeedStart : decode 0b0001001000000000#16 = .command .x128SeedStart := by decide
theorem test_decode_x128SeedByte : decode 0b0001001101100001#16 = .command (.x128SeedByte 0x61#8) := by decide
theorem test_decode_x128SeedEnd : decode 0b0001010000000000#16 = .command .x128SeedEnd := by decide
theorem test_decode_x128Next : decode 0b0001010100000000#16 = .command .x128Next := by decide

/-- The illegal words of 95_test_vectors.md section 8. -/
theorem test_decode_illegal :
    [0x0000#16, 0x0101#16, 0x0501#16, 0x0600#16, 0x0700#16, 0x0800#16, 0x1800#16, 0x1d00#16, 0x2500#16, 0x8500#16,
      0xffff#16].map decode =
      [.illegal .reservedOperation, .illegal .operandNotZero, .illegal .operandNotZero, .illegal .reservedOperation,
        .illegal .reservedOperation, .illegal .reservedOperation, .illegal .reservedUnit, .illegal .reservedUnit,
        .illegal .reservedField, .illegal .reservedField, .illegal .reservedField] := by decide

theorem test_encode_x128SeedByte : encode (.x128SeedByte 0x61#8) = 0x1361#16 := by decide
theorem test_decodeTableWord : decodeTableWord 16 0x0d00 = some .x256Next := by decide
theorem test_decodeTableWord_illegal : decodeTableWord 16 0x1501 = none := by decide

/-! ### The commands -/

/-- The state a command leaves, if it leaves one. -/
def after (o : Host.Outcome State Fault Refusal) : Option State :=
  match o with
  | .next t => some t
  | .fault _ => none
  | .refused _ => none

/-- The reset state with every engine in one phase. -/
def inPhases (ph : Phase) : State :=
  { State.reset with
    pcg := { State.reset.pcg with ph := ph }
    x256 := { State.reset.x256 with ph := ph }
    x128 := { State.reset.x128 with ph := ph } }

/-- The reset state with given answers of the entropy source. -/
def withReplies (l : List EntropyReply) : State := { State.reset with entropyReplies := l }

/-- A `PCG` engine in a given state. -/
def withPcg (s acc : Word64) (cnt : BitVec 3) (ph : Phase) : State :=
  { State.reset with pcg := { s := s, acc := acc, cnt := cnt, ph := ph } }

/-- An `X256` engine in a given state. -/
def withX256 (st : Quad 64) (h : Word64) (ph : Phase) : State :=
  { State.reset with x256 := { st := st, h := h, cnt := 1#3, ph := ph } }

/-- An `X128` engine in a given state. -/
def withX128 (st : Quad 32) (h : Word64) (ph : Phase) : State :=
  { State.reset with x128 := { st := st, h := h, cnt := 1#3, ph := ph } }

/-- 95_test_vectors.md section 8, entropy loading. -/
theorem test_pcgEntropy :
    (after (exec .pcgEntropy (withReplies
      [.bytes [0xe5#8, 0xa5#8, 0x5e#8, 0xd1#8, 0x0d#8, 0xf0#8, 0xfe#8, 0xca#8]]))).map (fun t => (t.pcg.s, t.pcg.ph)) =
      some (0xcafef00dd15ea5e5#64, .ready) := by decide +kernel

theorem test_pcgEntropy_fail :
    (after (exec .pcgEntropy (withReplies [.fail]))).map (fun t => (t.pcg.ph, t.responses)) =
      some (.idle, [⟨.entropyFail, 0#64, 0#64⟩]) := by decide +kernel

theorem test_pcgSeedStart :
    (after (exec .pcgSeedStart (inPhases .ready))).map (fun t => t.pcg) =
      some ⟨0xcafef00dd15ea5e5#64, 0#64, 0#3, .seeding⟩ := by decide +kernel

/-- The eighth byte of the seed `01 .. 08` (41_pcg.md R107). -/
theorem test_pcgSeedByte_eighth :
    (after (exec (.pcgSeedByte 0x08#8) (withPcg 0xcafef00dd15ea5e5#64 0x0007060504030201#64 7#3 .seeding))).map
      (fun t => t.pcg) = some ⟨0xb76bffc6ecbb1ebd#64, 0#64, 0#3, .seeding⟩ := by decide +kernel

/-- The second byte of the seed `01 02` (95_test_vectors.md section 3, register trace). -/
theorem test_pcgSeedByte_second :
    (after (exec (.pcgSeedByte 0x02#8) (withPcg 0xcafef00dd15ea5e5#64 1#64 1#3 .seeding))).map (fun t => t.pcg) =
      some ⟨0xcafef00dd15ea5e5#64, 0x0201#64, 2#3, .seeding⟩ := by decide +kernel

theorem test_pcgSeedEnd :
    (after (exec .pcgSeedEnd (withPcg 0xcafef00dd15ea5e5#64 1#64 1#3 .seeding))).map (fun t => t.pcg) =
      some ⟨0x9fa7df8f9035c4bd#64, 0#64, 0#3, .ready⟩ := by decide +kernel

/-- 95_test_vectors.md section 4, rotation by 31. -/
theorem test_pcgNext_rot31 :
    (after (exec .pcgNext (withPcg 0xffffffffffffffff#64 0#64 0#3 .ready))).map (fun t => (t.pcg.s, t.responses)) =
      some (0xbbb38751aad20222#64, [⟨.ok, 0xfff00001#64, 0x3feffe0000200000#64⟩]) := by decide +kernel

/-- 95_test_vectors.md section 4, rotation by 0. -/
theorem test_pcgNext_rot0 :
    (after (exec .pcgNext (withPcg 0x0123456789abcdef#64 0#64 0#3 .ready))).map (fun t => (t.pcg.s, t.responses)) =
      some (0x2ce32d2335df4552#64, [⟨.ok, 0x2468a5eb#64, 0x3fc23452f5800000#64⟩]) := by decide +kernel

theorem test_x256Entropy :
    (after (exec .x256Entropy (withReplies [.bytes
      ([1#8] ++ List.replicate 7 0#8 ++ [2#8] ++ List.replicate 7 0#8 ++ [3#8] ++ List.replicate 7 0#8 ++ [4#8] ++
        List.replicate 7 0#8)]))).map (fun t => (t.x256.st, t.x256.ph)) =
      some (⟨1#64, 2#64, 3#64, 4#64⟩, .ready) := by decide +kernel

theorem test_x256SeedStart :
    (after (exec .x256SeedStart (inPhases .ready))).map (fun t => (t.x256.h, t.x256.st.s0, t.x256.ph)) =
      some (0xcbf29ce484222325#64, 0xffffffffffffffff#64, .seeding) := by decide +kernel

theorem test_x256SeedByte :
    (after (exec (.x256SeedByte 0x61#8) (withX256 ⟨0#64, 0#64, 0#64, 0#64⟩ 0xcbf29ce484222325#64 .seeding))).map
      (fun t => (t.x256.h, t.x256.ph)) = some (0xaf63dc4c8601ec8c#64, .seeding) := by decide +kernel

/-- 42_xsr256.md R126, the empty seed. -/
theorem test_x256SeedEnd :
    (after (exec .x256SeedEnd (withX256 ⟨0#64, 0#64, 0#64, 0#64⟩ 0xcbf29ce484222325#64 .seeding))).map
      (fun t => (t.x256.st, t.x256.h)) =
      some (⟨0xc3817c016ba4ff30#64, 0x100cdaacc0bc9316#64, 0x54c3a569ecf61b1b#64, 0x2c65920724651c72#64⟩,
        0x44d083ca814c1379#64) := by decide +kernel

/-- `XSR_SEED_PADDED`: the seed `00` then hashes as `00 x 8` (95_test_vectors.md section 6). -/
theorem test_x256SeedEnd_padded :
    (after (exec .x256SeedEnd { withX256 ⟨0#64, 0#64, 0#64, 0#64⟩ 0xaf63bd4c8601b7df#64 .seeding with
      params := ⟨true, false⟩ })).map (fun t => (t.x256.st.s0, t.x256.h)) =
      some (0x5ba314b8cfda3b6b#64, 0x21a5df1825442a19#64) := by decide +kernel

/-- 42_xsr256.md R127, the first step of the default seed. -/
theorem test_x256Next :
    (after (exec .x256Next (withX256 ⟨0xc3817c016ba4ff30#64, 0x100cdaacc0bc9316#64, 0x54c3a569ecf61b1b#64,
      0x2c65920724651c72#64⟩ 0#64 .ready))).map (fun t => (t.x256.st, t.responses)) =
      some (⟨0xffe834aa8f7d7054#64, 0x874e03c447ee773d#64, 0x221b5811a17ee42b#64, 0x31ec878d29157c9b#64⟩,
        [⟨.ok, 0xefe70e08900a1#64, 0x3fedfce1c1120142#64⟩]) := by decide +kernel

/-- 95_test_vectors.md section 6, the sum wraps. -/
theorem test_x256Next_wraps :
    (after (exec .x256Next (withX256 ⟨0x8000000000000000#64, 0#64, 0#64, 0x8000000000000000#64⟩ 0#64 .ready))).map
      (fun t => (t.x256.st, t.responses)) =
      some (⟨0#64, 0x8000000000000000#64, 0x8000000000000000#64, 0x0000100000000000#64⟩, [⟨.ok, 0#64, 0#64⟩]) := by
  decide +kernel

/-- 95_test_vectors.md section 8, entropy loading. -/
theorem test_x128Entropy :
    (after (exec .x128Entropy (withReplies [.bytes [0x78#8, 0x56#8, 0x34#8, 0x12#8, 0xf0#8, 0xde#8, 0xbc#8, 0x9a#8,
      0xa9#8, 0xcb#8, 0xed#8, 0x0f#8, 0x21#8, 0x43#8, 0x65#8, 0x87#8]]))).map (fun t => (t.x128.st, t.x128.ph)) =
      some (⟨0x12345678#32, 0x9abcdef0#32, 0x0fedcba9#32, 0x87654321#32⟩, .ready) := by decide +kernel

theorem test_x128SeedStart :
    (after (exec .x128SeedStart (inPhases .seeding))).map (fun t => (t.x128.h, t.x128.st.s3, t.x128.ph)) =
      some (0xcbf29ce484222325#64, 0xffffffff#32, .seeding) := by decide +kernel

/-- 43_xsr128.md R145: the third byte of "abc" (the hash before it, 95_test_vectors.md section 9, Program 3). -/
theorem test_x128SeedByte :
    (after (exec (.x128SeedByte 0x63#8) (withX128 ⟨0#32, 0#32, 0#32, 0#32⟩ 0x089c4407b545986a#64 .seeding))).map
      (fun t => t.x128.h) = some 0xe71fa2190541574b#64 := by decide +kernel

theorem test_x128SeedEnd :
    (after (exec .x128SeedEnd (withX128 ⟨0#32, 0#32, 0#32, 0#32⟩ 0xcbf29ce484222325#64 .seeding))).map
      (fun t => (t.x128.st, t.x128.h)) =
      some (⟨0x6ba4ff30#32, 0xc3817c01#32, 0xc0bc9316#32, 0x100cdaac#32⟩, 0x0861905782b71b4f#64) := by decide +kernel

/-- 95_test_vectors.md section 7, the generic row. -/
theorem test_x128Next :
    (after (exec .x128Next (withX128 ⟨0x12345678#32, 0x9abcdef0#32, 0x0fedcba9#32, 0x87654321#32⟩ 0#64 .ready))).map
      (fun t => (t.x128.st, t.responses)) =
      some (⟨0x0fedcba9#32, 0x87654321#32, 0x64647dd1#32, 0xccee88ee#32⟩,
        [⟨.ok, 0x99981812#64, 0x3fe3330302400000#64⟩]) := by decide +kernel

/-- 95_test_vectors.md section 7, the multiplication wraps. -/
theorem test_x128Next_wraps :
    (after (exec .x128Next (withX128 ⟨0#32, 0x80000000#32, 0#32, 0#32⟩ 0#64 .ready))).map
      (fun t => (t.x128.st, t.responses)) =
      some (⟨0x80000000#32, 0x80000000#32, 0#32, 0x400#32⟩, [⟨.ok, 0x240#64, 0x3e82000000000000#64⟩]) := by
  decide +kernel

/-! ### Steps -/

theorem test_step_illegal :
    (after (step (State.reset.withFetchWord 16 0x1501))).map (fun t => (t.responses, t.inputs)) =
      some ([⟨.illegalCmd, 0#64, 0#64⟩], []) := by decide +kernel

theorem test_step_badPhase :
    (after (step (State.reset.withFetchWord 16 0x0500))).map (fun t => (t.responses, t.pcg)) =
      some ([⟨.badPhase, 0#64, 0#64⟩], State.reset.pcg) := by decide +kernel

theorem test_step_silent :
    (after (step { withReplies [.silent] with inputs := [.command 0x0100#16] })).map
      (fun t => (t.responses, t.entropyPending)) = some ([], true) := by decide +kernel

/-- The first request after reset, with no answer listed, is a free value: the step still answers a next state. -/
theorem test_step_free_entropy : ∃ t, step (State.reset.withFetchWord 16 0x0900) = .next t := ⟨_, rfl⟩

theorem test_step_reset :
    (after (step { inPhases .ready with inputs := [.reset], params := ⟨false, true⟩ })).map
      (fun t => (t.pcg.s, t.x256.ph, t.x128.st.s0)) =
      some (0xcafef00dd15ea5e5#64, .ready, 0x6ba4ff30#32) := by decide +kernel

theorem test_mix64 : mix64 0x9e3779b97f4a7c15#64 = 0xe220a8397b1dcdaf#64 := by decide +kernel

/-- 40_seed_and_shared_functions.md R87, the worked example, by `F64Bits`. -/
theorem test_f64Bits : f64Bits (0xec2b26af / 2 ^ 32) = some 0x3fed8564d5e00000#64 := by decide +kernel

/-- The least subnormal of the binary64 format, negative. -/
theorem test_f64Value_subnormal : f64Value 0x8000000000000001#64 = some (-1 / 2 ^ 1074) := by decide +kernel

theorem test_pcgSeed_nine :
    pcgSeed [1#8, 2#8, 3#8, 4#8, 5#8, 6#8, 7#8, 8#8, 9#8] = 0x95d397c119ce241d#64 := by decide +kernel

/-! ### The host's side -/

/-- 40_seed_and_shared_functions.md R79. -/
theorem test_seedFromString : seedFromString ['a', 'b', 'c'] = some [0x61#8, 0x62#8, 0x63#8] := by decide

theorem test_assembleLine :
    assembleLine ['P', 'C', 'G', '.', 'S', 'E', 'E', 'D', ' ', '0', 'x', '6', '1', ',', ' ', '9', '8', ' ', ';', 'x'] =
      some [.pcgSeedStart, .pcgSeedByte 0x61#8, .pcgSeedByte 0x62#8, .pcgSeedEnd] := by decide

/-- 30_encoding.md R69 (c). -/
theorem test_assembleLine_nextN :
    assembleLine ['X', '1', '2', '8', '.', 'N', 'E', 'X', 'T', 'N', ' ', '3'] =
      some [.x128Next, .x128Next, .x128Next] := by decide

/-! ### Witnesses: a state and operands that meet all the hypotheses of a statement, one for each of its clauses -/

/-- The reset state with given inputs. -/
def withInputs (l : List Input) : State := { State.reset with inputs := l }

/-- A block that waits for its entropy source. -/
def waiting (l : List Input) : State := { State.reset with inputs := l, entropyPending := true }

theorem witness_EncodeOfDecode : decode 0x1361#16 = .command (.x128SeedByte 0x61#8) := by decide

theorem witness_StepRunsDecodedCommand :
    (withInputs [.command 0x0500#16]).inputs = .command 0x0500#16 :: [] ∧
    (withInputs [.command 0x0500#16]).entropyPending = false ∧ decode 0x0500#16 = .command .pcgNext := by decide

theorem witness_IllegalWordFaults :
    (withInputs [.command 0x2500#16]).inputs = .command 0x2500#16 :: [] ∧
    (withInputs [.command 0x2500#16]).entropyPending = false ∧
    (0x2500#16).toNat / 2 ^ 13 ≠ 0 ∧ (0x1d00#16).toNat / 2 ^ 11 % 4 = 3 ∧ (0x0000#16).toNat / 2 ^ 8 % 8 = 0 ∧
    (0x0600#16).toNat / 2 ^ 8 % 8 = 6 ∧ (0x0700#16).toNat / 2 ^ 8 % 8 = 7 ∧
    ((0x0501#16).toNat / 2 ^ 8 % 8 ≠ 3 ∧ (0x0501#16).toNat % 2 ^ 8 ≠ 0) ∧
    ¬ ((0x13ff#16).toNat / 2 ^ 13 ≠ 0 ∨ (0x13ff#16).toNat / 2 ^ 11 % 4 = 3 ∨
      ((0x13ff#16).toNat / 2 ^ 8 % 8 = 0 ∨ (0x13ff#16).toNat / 2 ^ 8 % 8 = 6 ∨ (0x13ff#16).toNat / 2 ^ 8 % 8 = 7) ∨
      ((0x13ff#16).toNat / 2 ^ 8 % 8 ≠ 3 ∧ (0x13ff#16).toNat % 2 ^ 8 ≠ 0)) := by decide

theorem witness_StepStopsOnlyWaiting :
    (State.reset.inputs = [] ∧ State.reset.entropyPending = false) ∧
    ((waiting [.command 0x0500#16]).entropyPending = true ∧
      ∀ rest, (waiting [.command 0x0500#16]).inputs ≠ .reset :: rest) :=
  ⟨by decide, rfl, fun rest h => by cases h⟩

theorem witness_ResetInput :
    ((withInputs [.reset]).inputs = .reset :: [] ∧ (withInputs [.reset]).params.resetLoadsDefault = false) ∧
    ({ withInputs [.reset] with params := ⟨false, true⟩ } : State).params.resetLoadsDefault = true ∧
    (∃ t t', step (withInputs [.reset]) = .next t ∧ step { inPhases .ready with inputs := [.reset] } = .next t') :=
  ⟨⟨rfl, rfl⟩, rfl, _, _, rfl, rfl⟩

theorem witness_EntropyPort :
    (withReplies [.bytes (List.replicate 8 0#8)]).entropyReplies = .bytes (List.replicate 8 0#8) :: [] ∧
    (List.replicate 8 (0#8)).length = 8 ∧ (List.replicate 7 (0#8)).length ≠ 8 ∧
    entropyReply 8 (withReplies [.bytes (List.replicate 8 0#8)]) = .bytes (List.replicate 8 0#8) ∧
    (∃ t, exec .pcgEntropy State.reset = .next t) ∧ (∃ t, exec .pcgNext State.reset = .next t) :=
  ⟨rfl, by decide, by decide, by decide +kernel, ⟨_, rfl⟩, ⟨_, rfl⟩⟩

theorem witness_SilentEntropyWaits :
    Instr.pcgEntropy.operation = .entropy ∧
    entropyReply (entropyBytes Instr.pcgEntropy.engine) (withReplies [.silent]) = .silent ∧
    (∃ t, exec .pcgEntropy (withReplies [.silent]) = .next t ∧ ∀ rest, t.inputs ≠ .reset :: rest) :=
  ⟨rfl, rfl, _, rfl, fun rest h => by cases h⟩

theorem witness_EntropyRules :
    entropyReply 8 (withReplies [.bytes (List.replicate 8 0xff#8)]) = .bytes (List.replicate 8 0xff#8) ∧
    entropyReply 32 (withReplies [.bytes (List.replicate 32 0xff#8)]) = .bytes (List.replicate 32 0xff#8) ∧
    entropyReply 16 (withReplies [.bytes (List.replicate 16 0xff#8)]) = .bytes (List.replicate 16 0xff#8) ∧
    entropyReply 8 (withReplies [.fail]) = .fail ∧ entropyReply 32 (withReplies [.fail]) = .fail ∧
    entropyReply 16 (withReplies [.fail]) = .fail := by decide +kernel

theorem witness_PcgSeedByteRule :
    ((withPcg 0#64 0#64 7#3 .seeding).pcg.ph = .seeding ∧ (withPcg 0#64 0#64 7#3 .seeding).pcg.cnt = 7#3) ∧
    ((withPcg 0#64 0#64 6#3 .seeding).pcg.ph = .seeding ∧ (withPcg 0#64 0#64 6#3 .seeding).pcg.cnt ≠ 7#3) ∧
    State.reset.pcg.ph ≠ .seeding := by decide

theorem witness_PcgSeedEndRule :
    ((withPcg 0#64 0#64 1#3 .seeding).pcg.ph = .seeding ∧ (withPcg 0#64 0#64 1#3 .seeding).pcg.cnt ≠ 0#3) ∧
    ((withPcg 0#64 0#64 0#3 .seeding).pcg.ph = .seeding ∧ (withPcg 0#64 0#64 0#3 .seeding).pcg.cnt = 0#3) ∧
    State.reset.pcg.ph ≠ .seeding := by decide

theorem witness_PcgNextRule : (inPhases .ready).pcg.ph = .ready ∧ (inPhases .seeding).pcg.ph ≠ .ready := by decide

theorem witness_X256SeedRules :
    (inPhases .seeding).params.xsrSeedPadded = false ∧ (inPhases .seeding).x256.ph = .seeding ∧
    (inPhases .ready).params.xsrSeedPadded = false ∧ (inPhases .ready).x256.ph ≠ .seeding := by decide

theorem witness_X256NextRule : (inPhases .ready).x256.ph = .ready ∧ (inPhases .seeding).x256.ph ≠ .ready := by decide

theorem witness_X128SeedRules :
    (inPhases .seeding).params.xsrSeedPadded = false ∧ (inPhases .seeding).x128.ph = .seeding ∧
    (inPhases .ready).params.xsrSeedPadded = false ∧ (inPhases .ready).x128.ph ≠ .seeding := by decide

theorem witness_PaddedSeedCommands :
    (({ inPhases .seeding with params := ⟨true, false⟩ } : State).params.xsrSeedPadded = true ∧
      ({ inPhases .seeding with params := ⟨true, false⟩ } : State).x256.ph = .seeding ∧
      ({ inPhases .seeding with params := ⟨true, false⟩ } : State).x128.ph = .seeding) ∧
    (({ inPhases .ready with params := ⟨true, false⟩ } : State).params.xsrSeedPadded = true ∧
      ({ inPhases .ready with params := ⟨true, false⟩ } : State).x256.ph ≠ .seeding ∧
      ({ inPhases .ready with params := ⟨true, false⟩ } : State).x128.ph ≠ .seeding) := by decide

theorem witness_X128NextRule : (inPhases .ready).x128.ph = .ready ∧ (inPhases .seeding).x128.ph ≠ .ready := by decide

theorem witness_PhaseTable :
    (Instr.x256Entropy.operation = .entropy ∧
      entropyReply (entropyBytes Instr.x256Entropy.engine) (withReplies [.bytes (List.replicate 32 0#8)]) =
        .bytes (List.replicate 32 0#8) ∧
      entropyReply (entropyBytes Instr.x256Entropy.engine) (withReplies [.fail]) = .fail) ∧
    Instr.x256SeedStart.operation = .seedStart ∧ (Instr.x256SeedByte 0#8).operation = .seedByte ∧
    Instr.x256SeedEnd.operation = .seedEnd ∧ Instr.x256Next.operation = .next ∧
    (inPhases .idle).phaseOf .x256 = .idle ∧ (inPhases .seeding).phaseOf .x256 = .seeding ∧
    (inPhases .ready).phaseOf .x256 = .ready := by decide +kernel

theorem witness_FaultKeepsRegisters :
    ∃ t r, runWord 0x0500#16 State.reset = .next t ∧ t.responses = r :: State.reset.responses ∧ r.status ≠ .ok :=
  ⟨_, _, rfl, rfl, by decide⟩

theorem witness_OneResponse :
    (inPhases .ready).entropyPending = false ∧
    (∃ t r, runWord 0x0500#16 (inPhases .ready) = .next t ∧ t.entropyPending = false ∧
      t.responses = r :: [] ∧ decode 0x0500#16 = .command .pcgNext ∧ r.status = .ok) ∧
    (∃ t r, runWord 0x0d00#16 (inPhases .ready) = .next t ∧ t.entropyPending = false ∧
      t.responses = r :: [] ∧ decode 0x0d00#16 = .command .x256Next ∧ r.status = .ok) ∧
    (∃ t r, runWord 0x1500#16 (inPhases .ready) = .next t ∧ t.entropyPending = false ∧
      t.responses = r :: [] ∧ decode 0x1500#16 = .command .x128Next ∧ r.status = .ok) ∧
    (∃ t r, runWord 0x0200#16 (inPhases .ready) = .next t ∧ t.entropyPending = false ∧
      t.responses = r :: [] ∧ decode 0x0200#16 = .command .pcgSeedStart ∧ Instr.pcgSeedStart.operation ≠ .next) ∧
    (∃ t r, runWord 0x0000#16 (inPhases .ready) = .next t ∧ t.entropyPending = false ∧
      t.responses = r :: [] ∧ r.status ≠ .ok) :=
  ⟨rfl, ⟨_, _, rfl, rfl, rfl, by decide, by simp [pcgResponse, nextResponse]⟩,
    ⟨_, _, rfl, rfl, rfl, by decide, by simp [x256Response, nextResponse]⟩,
    ⟨_, _, rfl, rfl, rfl, by decide, by simp [x128Response, nextResponse]⟩,
    ⟨_, _, rfl, rfl, rfl, by decide, by decide⟩, ⟨_, _, rfl, rfl, rfl, by decide⟩⟩

theorem witness_EngineOwnership :
    (∃ t, exec .pcgSeedStart State.reset = .next t) ∧ Engine.x256 ≠ Instr.pcgSeedStart.engine ∧
    (sameEngine Instr.pcgSeedStart.engine State.reset (withX256 ⟨0#64, 0#64, 0#64, 0#64⟩ 0#64 .ready) ∧
      State.reset.params = (withX256 ⟨0#64, 0#64, 0#64, 0#64⟩ 0#64 .ready).params ∧
      State.reset.entropyReplies = (withX256 ⟨0#64, 0#64, 0#64, 0#64⟩ 0#64 .ready).entropyReplies ∧
      State.reset.entropyRequests = (withX256 ⟨0#64, 0#64, 0#64, 0#64⟩ 0#64 .ready).entropyRequests) :=
  ⟨⟨_, rfl⟩, by decide, rfl, rfl, rfl, rfl⟩

theorem witness_EnginesCommute :
    Instr.pcgEntropy.engine ≠ Instr.x256Next.engine ∧
    (Instr.pcgEntropy.operation ≠ .entropy ∨ Instr.x256Next.operation ≠ .entropy) := by decide

theorem witness_InterleavingProjects : ∀ i ∈ [Instr.pcgSeedStart, .x128SeedStart, .pcgSeedEnd, .x128SeedByte 0x61#8],
    i.operation ≠ .entropy := by decide

theorem witness_Seedings :
    ((withInputs (sends (seedProgram .pcg [0x61#8]))).inputs = sends (seedProgram .pcg [0x61#8]) ++ [] ∧
      (withInputs (sends (seedProgram .pcg [0x61#8]))).entropyPending = false) ∧
    ((withInputs (sends (seedProgram .x256 []))).inputs = sends (seedProgram .x256 []) ++ [] ∧
      (withInputs (sends (seedProgram .x256 []))).entropyPending = false ∧
      (withInputs (sends (seedProgram .x256 []))).params.xsrSeedPadded = false) ∧
    ((withInputs (sends (seedProgram .x128 [0x61#8]))).inputs = sends (seedProgram .x128 [0x61#8]) ++ [] ∧
      (withInputs (sends (seedProgram .x128 [0x61#8]))).entropyPending = false ∧
      (withInputs (sends (seedProgram .x128 [0x61#8]))).params.xsrSeedPadded = false) := by decide

/-- A block whose `XSR_SEED_PADDED` is true, with given inputs. -/
def paddedWithInputs (l : List Input) : State := { withInputs l with params := ⟨true, false⟩ }

theorem witness_PaddedSeedingHashesPaddedSeed :
    ((paddedWithInputs (sends (seedProgram .x256 [0x61#8]))).entropyPending = false ∧
      (paddedWithInputs (sends (seedProgram .x256 [0x61#8]))).params.xsrSeedPadded = true ∧
      (paddedWithInputs (sends (seedProgram .x256 [0x61#8]))).inputs = sends (seedProgram .x256 [0x61#8]) ++ []) ∧
    ((paddedWithInputs (sends (seedProgram .x128 [0x61#8]))).entropyPending = false ∧
      (paddedWithInputs (sends (seedProgram .x128 [0x61#8]))).params.xsrSeedPadded = true ∧
      (paddedWithInputs (sends (seedProgram .x128 [0x61#8]))).inputs = sends (seedProgram .x128 [0x61#8]) ++ []) := by decide

/-- Two blocks that hold different things and are sent the same commands. -/
theorem witness_SeededRunsRepeat :
    (withInputs (sends (seedProgram .pcg [0x61#8] ++ nextProgram .pcg 2))).inputs =
      sends (seedProgram .pcg [0x61#8] ++ nextProgram .pcg 2) ++ [] ∧
    ({ inPhases .ready with inputs := sends (seedProgram .pcg [0x61#8] ++ nextProgram .pcg 2) ++ [.reset] } : State).inputs =
      sends (seedProgram .pcg [0x61#8] ++ nextProgram .pcg 2) ++ [.reset] ∧
    State.reset.entropyPending = false ∧ (inPhases .ready).entropyPending = false ∧
    State.reset.params.xsrSeedPadded = (inPhases .ready).params.xsrSeedPadded := by decide

/-- A block with every engine constructed, sent two output steps of one engine. -/
def readyToStep (e : Engine) : State := { inPhases .ready with inputs := sends (nextProgram e 2) }

theorem witness_NextStreams :
    ((readyToStep .pcg).entropyPending = false ∧ (readyToStep .pcg).inputs = sends (nextProgram .pcg 2) ++ [] ∧
      (readyToStep .pcg).pcg.ph = .ready) ∧
    ((readyToStep .x256).entropyPending = false ∧ (readyToStep .x256).inputs = sends (nextProgram .x256 2) ++ [] ∧
      (readyToStep .x256).x256.ph = .ready) ∧
    ((readyToStep .x128).entropyPending = false ∧ (readyToStep .x128).inputs = sends (nextProgram .x128 2) ++ [] ∧
      (readyToStep .x128).x128.ph = .ready) := by decide

/-- Two idle blocks with different contents agree in what can be read; a step of each answers. -/
theorem witness_UnwrittenRegistersUnread :
    agreeReadable State.reset (withPcg 1#64 2#64 3#3 .idle) ∧ State.reset ≠ withPcg 1#64 2#64 3#3 .idle ∧
    (∃ s', runFor 1 State.reset = .next s') ∧
    (agreeReadable (waiting []) (waiting []) ∧ runFor 1 (waiting []) = .fault .entropyNeverReplied) := by
  refine ⟨?_, by decide, ⟨_, rfl⟩, ?_, rfl⟩ <;>
    simp [agreeReadable, PcgRegs.agree, X256Regs.agree, X128Regs.agree, State.reset, withPcg, waiting]

theorem witness_StepKeepsInvariant :
    StateInv (withPcg 0#64 0xffffffffffffff#64 7#3 .seeding) ∧
    ∃ t, step (withPcg 0#64 0xffffffffffffff#64 7#3 .seeding) = .next t :=
  ⟨⟨fun _ => by decide, by simp [withPcg, State.reset]⟩, _, rfl⟩

theorem witness_F64Frac : (52 = 32 ∨ 52 = 52) ∧ 2 ^ 52 - 1 < 2 ^ 52 ∧ 0 < 2 ^ 32 ∧ 2 ^ 51 ≤ 2 ^ 52 - 1 ∧
    2 ^ 52 - 1 < 2 ^ (51 + 1) ∧ 2 ^ 32 - 1 < 2 ^ 32 := by decide

theorem witness_F64ValueFormula : 1 ≤ (1#11).toNat ∧ (2046#11).toNat ≤ 2046 := by decide

/-- Both directions at the ends of the ranges: the least subnormal, the least and the greatest normal number. -/
theorem witness_F64Conversions :
    [0x0000000000000001#64, 0x0010000000000000#64, 0xffefffffffffffff#64].all (fun p =>
      match f64Value p with
      | some q => decide (f64Bits q = some p ∧ p ≠ 0x8000000000000000#64)
      | none => false) = true ∧
    f64Value 0x7ff0000000000000#64 = none ∧ f64Bits 0 = some 0x0000000000000000#64 := by decide +kernel

theorem witness_PcgPadding : [0x01#8].length % 8 ≠ 0 ∧ ([] : List Byte).length % 8 = 0 := by decide

theorem witness_PcgLcgBijective : (0#64 : Word64) ≠ 1#64 ∧ (inPhases .ready).pcg.ph = .ready := by decide

theorem witness_Mix64Bijective : 0 < 4 ∧ 3 < 4 ∧ (0 : Nat) ≠ 3 := by decide

/-- The all-zero state is reached from another state by entropy. -/
theorem witness_X256AllZero :
    (withX256 ⟨0#64, 0#64, 0#64, 0#64⟩ 0#64 .ready).x256.ph = .ready ∧
    (withX256 ⟨0#64, 0#64, 0#64, 0#64⟩ 0#64 .ready).x256.st = ⟨0#64, 0#64, 0#64, 0#64⟩ ∧
    (withReplies [.bytes (List.replicate 32 0#8)]).x256.st ≠ ⟨0#64, 0#64, 0#64, 0#64⟩ ∧
    (after (exec .x256Entropy (withReplies [.bytes (List.replicate 32 0#8)]))).map (fun t => t.x256.st) =
      some ⟨0#64, 0#64, 0#64, 0#64⟩ := by decide +kernel

theorem witness_X128AllZero :
    (withX128 ⟨0#32, 0#32, 0#32, 0#32⟩ 0#64 .ready).x128.ph = .ready ∧
    (withX128 ⟨0#32, 0#32, 0#32, 0#32⟩ 0#64 .ready).x128.st = ⟨0#32, 0#32, 0#32, 0#32⟩ ∧
    (withReplies [.bytes (List.replicate 16 0#8)]).x128.st ≠ ⟨0#32, 0#32, 0#32, 0#32⟩ ∧
    (after (exec .x128Entropy (withReplies [.bytes (List.replicate 16 0#8)]))).map (fun t => t.x128.st) =
      some ⟨0#32, 0#32, 0#32, 0#32⟩ := by decide +kernel

theorem witness_FromNumberLittleEndian : 7 < 8 := by decide

end Sys2Proof.Tests
end

section
/-! PROOFS. O60: the two conversions between binary64 patterns and rationals are inverse to each other, and `F64Frac` is a case of
`F64Bits` (00_scope.md R16; 40_seed_and_shared_functions.md R86, R87, R90). Both directions go through `f64Bits_eq_some_iff`, which
says by the fields of a pattern when a rational has it. -/

namespace Sys2Proof.Proofs.Conversions

open Sys2Proof.Machine

/-! ### The size of a finite pattern -/

theorem f64Magnitude_eq_scaled (e f : Nat) : ∃ m : Nat, f64Magnitude e f = (m : ℚ) / 2 ^ 1074 := by
  by_cases he : e = 0
  · exact ⟨f, by rw [he, f64Magnitude_subnormal]⟩
  · exact ⟨_, f64Magnitude_scaled he f⟩

/-- Only the pattern with both fields 0 has size 0. -/
theorem f64Magnitude_pos {n : Nat} (hn : n ≠ 0) : 0 < f64Magnitude (n / 2 ^ 52) (n % 2 ^ 52) := by
  by_cases he : n / 2 ^ 52 = 0
  · have hf : 0 < n % 2 ^ 52 := by omega
    rw [he, f64Magnitude_subnormal]
    positivity
  · rw [f64Magnitude_normal he]
    positivity

/-! ### `F64Value` -/

theorem f64Value_eq_none_iff (p : Word64) : f64Value p = none ↔ p.extractLsb' 52 11 = 0x7ff#11 := by
  rw [f64Value_eq, ← BitVec.toNat_inj]
  split
  · rename_i he; exact iff_of_true rfl he
  · rename_i he; exact iff_of_false (Option.some_ne_none _) he

/-- A pattern with a value is a sign above the fields of a finite size, and its value is that size with that sign. -/
theorem fields_of_f64Value {p : Word64} {q : ℚ} (h : f64Value p = some q) :
    ∃ (sign : Bool) (n : Nat), n < 2047 * 2 ^ 52 ∧ (p.toNat = if sign then 2 ^ 63 + n else n) ∧
      q = if sign then -f64Magnitude (n / 2 ^ 52) (n % 2 ^ 52) else f64Magnitude (n / 2 ^ 52) (n % 2 ^ 52) := by
  have hfinite : p.toNat / 2 ^ 52 % 2 ^ 11 ≠ 2047 := by
    intro he
    have hnone : f64Value p = none := (f64Value_eq_none_iff p).2 <| by
      rw [← BitVec.toNat_inj, BitVec.extractLsb'_toNat, Nat.shiftRight_eq_div_pow, he]; rfl
    simp [hnone] at h
  have hn : p.toNat % 2 ^ 63 < 2047 * 2 ^ 52 := by omega
  have hp : p.toNat = if decide (2 ^ 63 ≤ p.toNat) then 2 ^ 63 + p.toNat % 2 ^ 63 else p.toNat % 2 ^ 63 := by
    have := p.isLt
    simp only [decide_eq_true_eq]
    split <;> omega
  refine ⟨_, _, hn, hp, ?_⟩
  rw [f64Value_of_toNat hn hp] at h
  exact (Option.some.inj h).symm

/-! ### `F64Bits` -/

/-- `F64Bits` of a rational of size `m * 2^-1074`. -/
theorem f64Bits_of_scaled {q : ℚ} {m : Nat} (h : |q| = (m : ℚ) / 2 ^ 1074) :
    f64Bits q = (f64Unsigned m).map fun n => BitVec.ofNat 64 (if q < 0 then 2 ^ 63 + n else n) := by
  have hscaled : |q| * 2 ^ 1074 = (m : ℚ) := by
    rw [h, div_mul_cancel₀ _ (pow_ne_zero _ two_ne_zero)]
  simp only [f64Bits, hscaled, Rat.den_natCast, Rat.num_natCast, Int.natAbs_natCast, if_true]

theorem scaled_of_f64Bits {q : ℚ} {p : Word64} (h : f64Bits q = some p) :
    ∃ m : Nat, |q| = (m : ℚ) / 2 ^ 1074 := by
  simp only [f64Bits] at h
  split at h
  · rename_i hden
    have hpos : 0 ≤ |q| * 2 ^ 1074 := by positivity
    refine ⟨(|q| * 2 ^ 1074).num.natAbs, (eq_div_iff (pow_ne_zero _ two_ne_zero)).2 ?_⟩
    rw [Nat.cast_natAbs, abs_of_nonneg (Rat.num_nonneg.2 hpos)]
    exact (Rat.coe_int_num_of_den_eq_one hden).symm
  · cases h

/-- A rational has a pattern exactly when its size is that of the pattern's fields and the sign bit says whether it is negative. -/
theorem f64Bits_eq_some_iff {q : ℚ} {p : Word64} :
    f64Bits q = some p ↔ ∃ n < 2047 * 2 ^ 52, |q| = f64Magnitude (n / 2 ^ 52) (n % 2 ^ 52) ∧
      p.toNat = if q < 0 then 2 ^ 63 + n else n := by
  constructor
  · intro h
    obtain ⟨m, hm⟩ := scaled_of_f64Bits h
    rw [f64Bits_of_scaled hm, Option.map_eq_some_iff] at h
    obtain ⟨n, hu, rfl⟩ := h
    obtain ⟨hn, hsize⟩ := f64Unsigned_spec hu
    refine ⟨n, hn, hm.trans hsize, ?_⟩
    rw [BitVec.toNat_ofNat, Nat.mod_eq_of_lt]
    split <;> omega
  · rintro ⟨n, hn, hsize, hp⟩
    obtain ⟨m, hm⟩ := f64Magnitude_eq_scaled (n / 2 ^ 52) (n % 2 ^ 52)
    rw [f64Bits_of_scaled (hsize.trans hm), f64Unsigned_of_fields hn hm.symm, Option.map_some, ← hp,
      BitVec.ofNat_toNat, BitVec.setWidth_eq]

/-! ### The conversions are inverse to each other -/

theorem f64Value_of_f64Bits {q : ℚ} {p : Word64} (h : f64Bits q = some p) : f64Value p = some q := by
  obtain ⟨n, hn, hsize, hp⟩ := f64Bits_eq_some_iff.1 h
  rw [f64Value_of_toNat (sign := decide (q < 0)) hn (by simpa using hp), ← hsize]
  by_cases hq : q < 0
  · simp [hq, abs_of_neg hq]
  · simp [hq, abs_of_nonneg (not_lt.1 hq)]

theorem f64Bits_of_f64Value {q : ℚ} {p : Word64} (h : f64Value p = some q) (hp : p ≠ 0x8000000000000000#64) :
    f64Bits q = some p := by
  obtain ⟨sign, n, hn, hfields, rfl⟩ := fields_of_f64Value h
  have hnonneg := f64Magnitude_nonneg (n / 2 ^ 52) (n % 2 ^ 52)
  refine f64Bits_eq_some_iff.2 ⟨n, hn, ?_, hfields.trans ?_⟩
  · cases sign
    · exact abs_of_nonneg hnonneg
    · exact (abs_neg _).trans (abs_of_nonneg hnonneg)
  · cases sign with
    | false => exact (if_neg (not_lt.2 hnonneg)).symm
    | true =>
      have hn0 : n ≠ 0 := by
        rintro rfl
        exact hp (BitVec.eq_of_toNat_eq hfields)
      exact (if_pos (neg_lt_zero.2 (f64Magnitude_pos hn0))).symm

theorem f64Value_neg_zero : f64Value 0x8000000000000000#64 = some 0 := by
  rw [f64Value_of_toNat (n := 0) (sign := true) (by decide) rfl]
  simp [f64Magnitude_subnormal]

/-! ### `F64Frac` is a case of `F64Bits` -/

/-- The size of the pattern whose leading one, at bit `k`, is dropped from the mantissa field. -/
theorem f64Magnitude_fraction {N P k : Nat} (hP : P ≤ 52) (hk : k < P) (hlo : 2 ^ k ≤ N) :
    f64Magnitude (1023 - P + k) ((N - 2 ^ k) * 2 ^ (52 - k)) = (N : ℚ) / 2 ^ P := by
  have hexp : (2 : ℚ) ^ 1023 = 2 ^ (1023 - P) * 2 ^ P := by rw [← pow_add]; congr 1; omega
  have hman : (2 : ℚ) ^ 52 = 2 ^ (52 - k) * 2 ^ k := by rw [← pow_add]; congr 1; omega
  rw [f64Magnitude_normal (by omega), hexp, hman, pow_add]
  push_cast [hlo]
  field_simp
  ring

/-- A result's pattern is finite and not negative, and its size is exactly `N / 2^P`. -/
theorem f64Frac_fields {N P : Nat} (hP : P ≤ 52) (hN : N < 2 ^ P) :
    (f64Frac N P).toNat < 2047 * 2 ^ 52 ∧
      (N : ℚ) / 2 ^ P = f64Magnitude ((f64Frac N P).toNat / 2 ^ 52) ((f64Frac N P).toNat % 2 ^ 52) := by
  by_cases h0 : N = 0
  · simp [h0, f64Frac_zero, f64Magnitude_subnormal]
  · have hk : N.log2 < P := (Nat.log2_lt h0).2 hN
    have hlo : 2 ^ N.log2 ≤ N := Nat.log2_self_le h0
    have hf : (N - 2 ^ N.log2) * 2 ^ (52 - N.log2) < 2 ^ 52 := by
      have hhi : N < 2 ^ (N.log2 + 1) := Nat.lt_log2_self
      rw [pow_succ] at hhi
      calc (N - 2 ^ N.log2) * 2 ^ (52 - N.log2)
          < 2 ^ N.log2 * 2 ^ (52 - N.log2) := Nat.mul_lt_mul_of_pos_right (by omega) (by positivity)
        _ = 2 ^ 52 := by rw [← pow_add]; congr 1; omega
    rw [f64Frac_toNat h0 hP hN, ← f64Magnitude_fraction hP hk hlo]
    generalize (N - 2 ^ N.log2) * 2 ^ (52 - N.log2) = f at *
    have he : ((1023 - P + N.log2) * 2 ^ 52 + f) / 2 ^ 52 = 1023 - P + N.log2 := by omega
    have hm : ((1023 - P + N.log2) * 2 ^ 52 + f) % 2 ^ 52 = f := by omega
    exact ⟨by omega, by rw [he, hm]⟩

theorem f64Bits_fraction {N P : Nat} (hP : P ≤ 52) (hN : N < 2 ^ P) :
    f64Bits ((N : ℚ) / 2 ^ P) = some (f64Frac N P) := by
  have hnonneg : 0 ≤ (N : ℚ) / 2 ^ P := by positivity
  obtain ⟨hfinite, hsize⟩ := f64Frac_fields hP hN
  exact f64Bits_eq_some_iff.2 ⟨_, hfinite, by rw [abs_of_nonneg hnonneg, hsize], by rw [if_neg (not_lt.2 hnonneg)]⟩

/-- Settles O60, from the characterisation of `F64Bits` by a pattern's fields. -/
theorem f64Conversions : Obligations.F64Conversions := by
  unfold Obligations.F64Conversions
  refine ⟨f64Value_eq_none_iff, fun _ _ => f64Value_of_f64Bits, fun _ _ => f64Bits_of_f64Value, f64Value_neg_zero, ?_⟩
  intro N P hP hN
  exact f64Bits_fraction (by omega) hN

end Sys2Proof.Proofs.Conversions
end

section
/-! PROOFS. Every command in two shapes, which the proofs about all fifteen commands go through: an `ENTROPY` command is one
construction from entropy, and every other command passes the phase check, writes the registers of its own engine and gives its
response (10_state.md R26, R28). -/

namespace Sys2Proof.Proofs.Commands

open Sys2Proof.Machine

/-! ### What a command writes and what it answers, by engine and operation -/

/-- The `PCG` registers after an operation that took effect; `ENTROPY` is the matter of `load`. -/
def pcgAdvance (o : Operation) (b : Byte) (r : PcgRegs) : PcgRegs :=
  match o with
  | .entropy => r
  | .seedStart => pcgStart r
  | .seedByte => pcgByte b r
  | .seedEnd => pcgEnd r
  | .next => pcgStep r

/-- The same of the `X256` registers. -/
def x256Advance (padded : Bool) (o : Operation) (b : Byte) (r : X256Regs) : X256Regs :=
  match o with
  | .entropy => r
  | .seedStart => x256Start padded r
  | .seedByte => x256Byte padded b r
  | .seedEnd => x256End padded r
  | .next => x256Step r

/-- The same of the `X128` registers. -/
def x128Advance (padded : Bool) (o : Operation) (b : Byte) (r : X128Regs) : X128Regs :=
  match o with
  | .entropy => r
  | .seedStart => x128Start padded r
  | .seedByte => x128Byte padded b r
  | .seedEnd => x128End padded r
  | .next => x128Step r

/-- The state in which an operation has written its engine and not yet answered. -/
def advance (e : Engine) (o : Operation) (b : Byte) (s : State) : State :=
  match e with
  | .pcg => s.setPcg (pcgAdvance o b s.pcg)
  | .x256 => s.setX256 (x256Advance s.params.xsrSeedPadded o b s.x256)
  | .x128 => s.setX128 (x128Advance s.params.xsrSeedPadded o b s.x128)

/-- The response of an output step. -/
def nextOutput (e : Engine) (s : State) : Response :=
  match e with
  | .pcg => pcgResponse s.pcg.s
  | .x256 => x256Response s.x256.st
  | .x128 => x128Response s.x128.st

/-- The response of an operation that took effect, from the state before it. -/
def output (e : Engine) (o : Operation) (s : State) : Response :=
  if o = .next then nextOutput e s else okResponse

/-- The state in which an engine has been loaded with entropy bytes. -/
def load (e : Engine) (d : List Byte) (s : State) : State :=
  match e with
  | .pcg => s.setPcg (pcgLoad d s.pcg)
  | .x256 => s.setX256 (x256Load d s.x256)
  | .x128 => s.setX128 (x128Load d s.x128)

/-- The state in which an `ENTROPY` command has made its request and waits for a source that never replies. -/
def awaitReply (s : State) : State := { takeReply s with entropyPending := true }

@[simp] theorem output_next (e : Engine) (s : State) : output e .next s = nextOutput e s := rfl

theorem instrOf_engine (e : Engine) (o : Operation) (b : Byte) : (instrOf e o b).engine = e := by
  cases e <;> cases o <;> rfl

theorem instrOf_operation (e : Engine) (o : Operation) (b : Byte) : (instrOf e o b).operation = o := by
  cases e <;> cases o <;> rfl

/-! ### The two shapes of a command -/

theorem exec_of_entropy {i : Instr} (hi : i.operation = .entropy) (s : State) :
    exec i s = constructFromEntropy (entropyBytes i.engine) (load i.engine) s := by
  cases i
  case pcgEntropy | x256Entropy | x128Entropy => rfl
  all_goals cases hi

theorem exec_of_not_entropy {i : Instr} (hi : i.operation ≠ .entropy) (s : State) :
    exec i s = inPhase i.operation (s.phaseOf i.engine)
      (respond (output i.engine i.operation s) (advance i.engine i.operation i.imm8 s)) s := by
  cases i
  case pcgEntropy | x256Entropy | x128Entropy => exact absurd rfl hi
  all_goals rfl

theorem exec_of_legal {i : Instr} {s : State} (hi : i.operation ≠ .entropy)
    (hl : legalIn i.operation (s.phaseOf i.engine) = true) :
    exec i s = .next (respond (output i.engine i.operation s) (advance i.engine i.operation i.imm8 s)) := by
  rw [exec_of_not_entropy hi, inPhase_of_legal hl]

theorem exec_of_illegal {i : Instr} {s : State} (hi : i.operation ≠ .entropy)
    (hl : legalIn i.operation (s.phaseOf i.engine) = false) : exec i s = .next (raise .badPhase s) := by
  rw [exec_of_not_entropy hi, inPhase_of_illegal hl]

/-- All that a command can answer: each proof about every command has these five cases. -/
theorem exec_next {i : Instr} {s t : State} (h : exec i s = .next t) :
    (∃ d, entropyReply (entropyBytes i.engine) s = .bytes d ∧ t = respond okResponse (load i.engine d (takeReply s))) ∨
    t = raise .entropyFail (takeReply s) ∨
    t = awaitReply s ∨
    (legalIn i.operation (s.phaseOf i.engine) = true ∧
      t = respond (output i.engine i.operation s) (advance i.engine i.operation i.imm8 s)) ∨
    t = raise .badPhase s := by
  by_cases hi : i.operation = .entropy
  · rw [exec_of_entropy hi] at h
    obtain hbytes | ⟨-, hfail⟩ | ⟨-, hsilent⟩ := constructFromEntropy_next h
    · exact .inl hbytes
    · exact .inr (.inl hfail)
    · exact .inr (.inr (.inl hsilent))
  · rw [exec_of_not_entropy hi] at h
    obtain hlegal | ⟨-, hraise⟩ := inPhase_next h
    · exact .inr (.inr (.inr (.inl hlegal)))
    · exact .inr (.inr (.inr (.inr hraise)))

/-! ### The phase check -/

@[simp] theorem legalIn_seedByte (ph : Phase) : legalIn .seedByte ph = true ↔ ph = .seeding := by simp [legalIn]

@[simp] theorem legalIn_seedEnd (ph : Phase) : legalIn .seedEnd ph = true ↔ ph = .seeding := by simp [legalIn]

@[simp] theorem legalIn_next (ph : Phase) : legalIn .next ph = true ↔ ph = .ready := by simp [legalIn]

/-! ### The registers and the ports after a command took effect -/

theorem pcgAdvance_ph {o : Operation} {r : PcgRegs} (b : Byte) (ho : o ≠ .entropy) (hl : legalIn o r.ph = true) :
    (pcgAdvance o b r).ph = phaseAfter o := by
  cases o with
  | entropy => exact absurd rfl ho
  | seedStart => exact pcgStart_ph r
  | seedByte => exact (pcgByte_ph b r).trans ((legalIn_seedByte _).1 hl)
  | seedEnd => exact pcgEnd_ph r
  | next => exact (pcgStep_ph r).trans ((legalIn_next _).1 hl)

theorem x256Advance_ph {o : Operation} {r : X256Regs} (p : Bool) (b : Byte) (ho : o ≠ .entropy)
    (hl : legalIn o r.ph = true) : (x256Advance p o b r).ph = phaseAfter o := by
  cases o with
  | entropy => exact absurd rfl ho
  | seedStart => exact x256Start_ph p r
  | seedByte => exact (x256Byte_ph p b r).trans ((legalIn_seedByte _).1 hl)
  | seedEnd => exact x256End_ph p r
  | next => exact (x256Step_ph r).trans ((legalIn_next _).1 hl)

theorem x128Advance_ph {o : Operation} {r : X128Regs} (p : Bool) (b : Byte) (ho : o ≠ .entropy)
    (hl : legalIn o r.ph = true) : (x128Advance p o b r).ph = phaseAfter o := by
  cases o with
  | entropy => exact absurd rfl ho
  | seedStart => exact x128Start_ph p r
  | seedByte => exact (x128Byte_ph p b r).trans ((legalIn_seedByte _).1 hl)
  | seedEnd => exact x128End_ph p r
  | next => exact (x128Step_ph r).trans ((legalIn_next _).1 hl)

theorem phaseOf_advance {e : Engine} {o : Operation} {s : State} (b : Byte) (ho : o ≠ .entropy)
    (hl : legalIn o (s.phaseOf e) = true) : (advance e o b s).phaseOf e = phaseAfter o := by
  cases e with
  | pcg => exact pcgAdvance_ph b ho hl
  | x256 => exact x256Advance_ph _ b ho hl
  | x128 => exact x128Advance_ph _ b ho hl

theorem phaseOf_load (e : Engine) (d : List Byte) (s : State) : (load e d s).phaseOf e = .ready := by
  cases e with
  | pcg => exact pcgLoad_ph d _
  | x256 => exact x256Load_ph d _
  | x128 => exact x128Load_ph d _

@[simp] theorem advance_responses (e : Engine) (o : Operation) (b : Byte) (s : State) :
    (advance e o b s).responses = s.responses := by cases e <;> rfl

@[simp] theorem advance_inputs (e : Engine) (o : Operation) (b : Byte) (s : State) :
    (advance e o b s).inputs = s.inputs := by cases e <;> rfl

@[simp] theorem advance_entropyPending (e : Engine) (o : Operation) (b : Byte) (s : State) :
    (advance e o b s).entropyPending = s.entropyPending := by cases e <;> rfl

@[simp] theorem awaitReply_responses (s : State) : (awaitReply s).responses = s.responses := rfl

@[simp] theorem load_responses (e : Engine) (d : List Byte) (s : State) :
    (load e d s).responses = s.responses := by cases e <;> rfl

theorem output_status (e : Engine) (o : Operation) (s : State) : (output e o s).status = .ok := by
  unfold output
  split
  · cases e with
    | pcg => exact pcgResponse_status _
    | x256 => exact x256Response_status _
    | x128 => exact x128Response_status _
  · rfl

@[simp] theorem phaseOf_respond (r : Response) (s : State) (e : Engine) : (respond r s).phaseOf e = s.phaseOf e := by
  cases e <;> rfl

@[simp] theorem phaseOf_setInputs (l : List Input) (s : State) (e : Engine) :
    (s.setInputs l).phaseOf e = s.phaseOf e := by
  cases e <;> rfl

/-! ### What one step can do -/

theorem acceptCommand_next {s t : State} {run : Host.Outcome State Fault Refusal} (h : acceptCommand s run = .next t) :
    s.entropyPending = false ∧ run = .next t := by
  cases hp : s.entropyPending with
  | false => rw [acceptCommand_of_free hp] at h; exact ⟨rfl, h⟩
  | true => rw [acceptCommand_of_waiting hp] at h; cases h

/-- All that a word at the command port can answer. -/
theorem runWord_next {w : CmdWord} {s t : State} (h : runWord w s = .next t) :
    (∃ i, decode w = .command i ∧ exec i s = .next t) ∨ t = raise .illegalCmd s := by
  cases hd : decode w with
  | command i => rw [runWord_of_command hd] at h; exact .inl ⟨i, rfl, h⟩
  | illegal why => rw [runWord_of_illegal hd] at h; exact .inr (Host.Outcome.next.inj h).symm

/-- All that a step can answer. -/
theorem step_next {s t : State} (h : step s = .next t) :
    (s.inputs = [] ∧ t = s) ∨
    (∃ w rest, s.inputs = .command w :: rest ∧ runWord w (s.setInputs rest) = .next t) ∨
    ∃ rest, s.inputs = .reset :: rest ∧ t = hardReset (s.setInputs rest) := by
  match hin : s.inputs with
  | [] =>
    rw [step_of_nil hin] at h
    exact .inl ⟨rfl, (Host.Outcome.next.inj (acceptCommand_next h).2).symm⟩
  | .command w :: rest =>
    rw [step_of_word hin] at h
    exact .inr (.inl ⟨w, rest, rfl, (acceptCommand_next h).2⟩)
  | .reset :: rest =>
    rw [step_of_reset hin] at h
    exact .inr (.inr ⟨rest, rfl, (Host.Outcome.next.inj h).symm⟩)

end Sys2Proof.Proofs.Commands
end

section
/-! PROOFS. O30, O9: the table of phases (10_state.md R28) and the state after reset (R34). -/

namespace Sys2Proof.Proofs.Phases

open Sys2Proof.Machine Sys2Proof.Proofs.Commands

/-- A cell of the table that names a phase: the command responds `OK` and its engine is then in that phase. -/
def GoesTo (i : Instr) (s : State) (ph : Phase) : Prop :=
  ∃ t r, exec i s = .next t ∧ t.responses = r :: s.responses ∧ r.status = .ok ∧ t.phaseOf i.engine = ph

/-- A cell of the table that names a fault: the command responds with it and no register changes. -/
def Faults (i : Instr) (s : State) (c : Status) : Prop :=
  ∃ t r, exec i s = .next t ∧ t.responses = r :: s.responses ∧ r.status = c ∧ sameRegisters s t

theorem sameRegisters_raise (c : Status) (s : State) : sameRegisters s (raise c s) := fun e => by cases e <;> rfl

theorem sameRegisters_raise_takeReply (c : Status) (s : State) : sameRegisters s (raise c (takeReply s)) :=
  fun e => by cases e <;> rfl

theorem goesTo_of_legal {i : Instr} {o : Operation} {s : State} (hi : i.operation = o) (ho : o ≠ .entropy)
    (hl : legalIn o (s.phaseOf i.engine) = true) : GoesTo i s (phaseAfter o) := by
  subst hi
  refine ⟨_, output i.engine i.operation s, exec_of_legal ho hl, ?_, output_status _ _ s, ?_⟩
  · rw [respond_responses, advance_responses]
  · rw [phaseOf_respond, phaseOf_advance _ ho hl]

theorem faults_of_illegal {i : Instr} {o : Operation} {s : State} (hi : i.operation = o) (ho : o ≠ .entropy)
    (hl : legalIn o (s.phaseOf i.engine) = false) : Faults i s .badPhase := by
  subst hi
  exact ⟨_, _, exec_of_illegal ho hl, raise_responses _ s, rfl, sameRegisters_raise _ s⟩

theorem goesTo_ready_of_bytes {i : Instr} {s : State} {d : List Byte} (hi : i.operation = .entropy)
    (hd : entropyReply (entropyBytes i.engine) s = .bytes d) : GoesTo i s .ready := by
  refine ⟨_, okResponse, (exec_of_entropy hi s).trans (constructFromEntropy_bytes hd), ?_, rfl, ?_⟩
  · rw [respond_responses, load_responses, takeReply_responses]
  · rw [phaseOf_respond, phaseOf_load]

theorem faults_of_entropyFail {i : Instr} {s : State} (hi : i.operation = .entropy)
    (hf : entropyReply (entropyBytes i.engine) s = .fail) : Faults i s .entropyFail :=
  ⟨_, _, (exec_of_entropy hi s).trans (constructFromEntropy_fail hf), raise_responses _ _, rfl,
    sameRegisters_raise_takeReply _ s⟩

/-- A cell of the table in a row other than that of `ENTROPY`. -/
theorem goesTo_or_faults {i : Instr} {o : Operation} (s : State) (hi : i.operation = o) (ho : o ≠ .entropy) :
    if legalIn o (s.phaseOf i.engine) then GoesTo i s (phaseAfter o) else Faults i s .badPhase := by
  cases hl : legalIn o (s.phaseOf i.engine) with
  | true => exact goesTo_of_legal hi ho hl
  | false => exact faults_of_illegal hi ho hl

/-- Settles O30, row by row: a command goes to `phaseAfter` from the phases it is legal in, and raises `BAD_PHASE` in the others. -/
theorem phaseTable : Obligations.PhaseTable := by
  unfold Obligations.PhaseTable
  intro i s goesTo faults
  refine ⟨fun hi => ⟨fun d hd => goesTo_ready_of_bytes hi hd, fun hf => faults_of_entropyFail hi hf⟩,
    fun hi => goesTo_of_legal hi (by decide) rfl, fun hi => ?_, fun hi => ?_, fun hi => ?_⟩ <;>
    have hcell := goesTo_or_faults s hi (by decide)
  · split <;> rename_i hph <;> rw [hph] at hcell <;> exact hcell
  · split <;> rename_i hph <;> rw [hph] at hcell <;> exact hcell
  · split <;> rename_i hph <;> rw [hph] at hcell <;> exact hcell

/-- Settles O9, by the fields of the state after reset. -/
theorem resetState : Obligations.ResetState := by
  unfold Obligations.ResetState
  refine ⟨fun e => ?_, rfl, rfl, rfl, rfl⟩
  cases e <;> rfl

end Sys2Proof.Proofs.Phases
end

section
/-! PROOFS. O33: a command reads and writes the registers of its own engine only (10_state.md R26). -/

namespace Sys2Proof.Proofs.Ownership

open Sys2Proof.Machine Sys2Proof.Proofs.Commands

/-! ### A command writes no other engine -/

theorem sameEngine_setPcg {e : Engine} (h : e ≠ .pcg) (r : PcgRegs) (s : State) : sameEngine e s (s.setPcg r) := by
  cases e with
  | pcg => exact absurd rfl h
  | x256 | x128 => rfl

theorem sameEngine_setX256 {e : Engine} (h : e ≠ .x256) (r : X256Regs) (s : State) : sameEngine e s (s.setX256 r) := by
  cases e with
  | x256 => exact absurd rfl h
  | pcg | x128 => rfl

theorem sameEngine_setX128 {e : Engine} (h : e ≠ .x128) (r : X128Regs) (s : State) : sameEngine e s (s.setX128 r) := by
  cases e with
  | x128 => exact absurd rfl h
  | pcg | x256 => rfl

theorem sameEngine_advance_of_ne {e own : Engine} (h : e ≠ own) (o : Operation) (b : Byte) (s : State) :
    sameEngine e s (advance own o b s) := by
  cases own with
  | pcg => exact sameEngine_setPcg h _ s
  | x256 => exact sameEngine_setX256 h _ s
  | x128 => exact sameEngine_setX128 h _ s

theorem sameEngine_load_of_ne {e own : Engine} (h : e ≠ own) (d : List Byte) (s : State) :
    sameEngine e s (load own d s) := by
  cases own with
  | pcg => exact sameEngine_setPcg h _ s
  | x256 => exact sameEngine_setX256 h _ s
  | x128 => exact sameEngine_setX128 h _ s

/-- Responses and requests are at the ports: they are no registers of an engine. -/
@[simp] theorem sameEngine_respond (e : Engine) (r : Response) (s t : State) :
    sameEngine e s (respond r t) ↔ sameEngine e s t := by cases e <;> rfl

@[simp] theorem respond_sameEngine (e : Engine) (r : Response) (s t : State) :
    sameEngine e (respond r s) t ↔ sameEngine e s t := by cases e <;> rfl

@[simp] theorem sameEngine_raise (e : Engine) (c : Status) (s t : State) :
    sameEngine e s (raise c t) ↔ sameEngine e s t := sameEngine_respond e _ s t

@[simp] theorem raise_sameEngine (e : Engine) (c : Status) (s t : State) :
    sameEngine e (raise c s) t ↔ sameEngine e s t := respond_sameEngine e _ s t

@[simp] theorem takeReply_sameEngine (e : Engine) (s t : State) :
    sameEngine e (takeReply s) t ↔ sameEngine e s t := by cases e <;> rfl

@[simp] theorem sameEngine_takeReply (e : Engine) (s t : State) :
    sameEngine e s (takeReply t) ↔ sameEngine e s t := by cases e <;> rfl

@[simp] theorem sameEngine_awaitReply (e : Engine) (s t : State) :
    sameEngine e s (awaitReply t) ↔ sameEngine e s t := by cases e <;> rfl

@[simp] theorem awaitReply_sameEngine (e : Engine) (s t : State) :
    sameEngine e (awaitReply s) t ↔ sameEngine e s t := by cases e <;> rfl

theorem sameEngine_refl (e : Engine) (s : State) : sameEngine e s s := by cases e <;> rfl

theorem exec_sameEngine_of_ne {i : Instr} {s t : State} {e : Engine} (ht : exec i s = .next t) (he : e ≠ i.engine) :
    sameEngine e s t := by
  obtain ⟨d, -, rfl⟩ | rfl | rfl | ⟨-, rfl⟩ | rfl := exec_next ht
  · simpa using sameEngine_load_of_ne he d (takeReply s)
  · simpa using sameEngine_refl e s
  · simpa using sameEngine_refl e s
  · simpa using sameEngine_advance_of_ne he _ _ s
  · simpa using sameEngine_refl e s

/-! ### A command reads no other engine -/

theorem phaseOf_congr {e : Engine} {s t : State} (h : sameEngine e s t) : s.phaseOf e = t.phaseOf e := by
  cases e with
  | pcg => exact congrArg PcgRegs.ph h
  | x256 => exact congrArg X256Regs.ph h
  | x128 => exact congrArg X128Regs.ph h

theorem output_congr {e : Engine} {s t : State} (o : Operation) (h : sameEngine e s t) : output e o s = output e o t := by
  have hnext : nextOutput e s = nextOutput e t := by
    cases e with
    | pcg => exact congrArg (fun r : PcgRegs => pcgResponse r.s) h
    | x256 => exact congrArg (fun r : X256Regs => x256Response r.st) h
    | x128 => exact congrArg (fun r : X128Regs => x128Response r.st) h
  rw [output, output, hnext]

theorem sameEngine_advance {e : Engine} {s t : State} (o : Operation) (b : Byte) (h : sameEngine e s t)
    (hp : s.params = t.params) : sameEngine e (advance e o b s) (advance e o b t) := by
  cases e with
  | pcg => exact congrArg (pcgAdvance o b) h
  | x256 => exact congrArg₂ (fun p : Params => x256Advance p.xsrSeedPadded o b) hp h
  | x128 => exact congrArg₂ (fun p : Params => x128Advance p.xsrSeedPadded o b) hp h

theorem sameEngine_load {e : Engine} {s t : State} (d : List Byte) (h : sameEngine e s t) :
    sameEngine e (load e d s) (load e d t) := by
  cases e with
  | pcg => exact congrArg (pcgLoad d) h
  | x256 => exact congrArg (x256Load d) h
  | x128 => exact congrArg (x128Load d) h

/-- Two runs of a command answer next states in which its engine is the same, and have given the same responses. -/
def SameAnswer (i : Instr) (s t : State) : Prop :=
  ∃ s' t' given, exec i s = .next s' ∧ exec i t = .next t' ∧ sameEngine i.engine s' t' ∧
    s'.responses = given ++ s.responses ∧ t'.responses = given ++ t.responses

theorem sameAnswer_of_entropy {i : Instr} {s t : State} (hi : i.operation = .entropy) (h : sameEngine i.engine s t)
    (hreply : entropyReply (entropyBytes i.engine) s = entropyReply (entropyBytes i.engine) t) : SameAnswer i s t := by
  unfold SameAnswer
  rw [exec_of_entropy hi, exec_of_entropy hi]
  cases hr : entropyReply (entropyBytes i.engine) s with
  | bytes d =>
    refine ⟨_, _, [okResponse], constructFromEntropy_bytes hr, constructFromEntropy_bytes (hreply ▸ hr), ?_, ?_, ?_⟩
    · simpa using sameEngine_load d (s := takeReply s) (t := takeReply t) (by simpa using h)
    · simp
    · simp
  | fail =>
    exact ⟨_, _, [faultResponse .entropyFail], constructFromEntropy_fail hr, constructFromEntropy_fail (hreply ▸ hr),
      by simpa using h, by simp, by simp⟩
  | silent =>
    exact ⟨awaitReply s, awaitReply t, [], constructFromEntropy_silent hr, constructFromEntropy_silent (hreply ▸ hr),
      by simpa using h, by simp, by simp⟩

theorem sameAnswer_of_not_entropy {i : Instr} {s t : State} (hi : i.operation ≠ .entropy)
    (h : sameEngine i.engine s t) (hp : s.params = t.params) : SameAnswer i s t := by
  have hph := phaseOf_congr h
  cases hl : legalIn i.operation (s.phaseOf i.engine) with
  | true =>
    refine ⟨_, _, [output i.engine i.operation s], exec_of_legal hi hl, exec_of_legal hi (hph ▸ hl), ?_, ?_, ?_⟩
    · simpa using sameEngine_advance _ _ h hp
    · simp
    · simp [output_congr _ h]
  | false =>
    exact ⟨_, _, [faultResponse .badPhase], exec_of_illegal hi hl, exec_of_illegal hi (hph ▸ hl),
      by simpa using h, by simp, by simp⟩

/-- Settles O33: writes by the frame of every answer, reads by running a command on two states that agree in its engine. -/
theorem engineOwnership : Obligations.EngineOwnership := by
  unfold Obligations.EngineOwnership
  refine ⟨fun i s t e ht he => exec_sameEngine_of_ne ht he, fun i s t h hp hl hc => ?_⟩
  by_cases hi : i.operation = .entropy
  · exact sameAnswer_of_entropy hi h (entropyReply_congr _ hl hc)
  · exact sameAnswer_of_not_entropy hi h hp

end Sys2Proof.Proofs.Ownership
end

section
/-! PROOFS. O43, O44: the invariant of the accumulator and of the responses holds after reset and is kept by every step
(10_state.md R21, 30_encoding.md R62, 92_eei_decisions.md D15). -/

namespace Sys2Proof.Proofs.Invariant

open Sys2Proof.Machine Sys2Proof.Proofs.Commands

/-- The first part of the invariant, of the `PCG` registers alone: the byte positions of `acc` not yet received hold zero. -/
def AccFits (r : PcgRegs) : Prop := r.ph = .seeding → r.acc.toNat < 2 ^ (8 * r.cnt.toNat)

theorem accFits_of_stateInv {s : State} (h : StateInv s) : AccFits s.pcg := h.1

/-! ### The accumulator -/

theorem accFits_of_ph_ne {r : PcgRegs} (h : r.ph ≠ .seeding) : AccFits r := fun hs => absurd hs h

/-- A byte put above `8 * n` bits that are in use gives a number of `8 * (n + 1)` bits. -/
theorem or_byte_toNat_lt {a : Word64} (b : Byte) {n : Nat} (ha : a.toNat < 2 ^ (8 * n)) :
    (a ||| (zext64 b <<< (8 * n))).toNat < 2 ^ (8 * (n + 1)) := by
  have hpow : 2 ^ (8 * (n + 1)) = 2 ^ 8 * 2 ^ (8 * n) := by rw [← pow_add]; congr 1; ring
  have hbyte : (zext64 b <<< (8 * n)).toNat < 2 ^ (8 * (n + 1)) := by
    have hb : (zext64 b).toNat < 2 ^ 8 := by simp only [zext64, BitVec.toNat_setWidth]; omega
    calc (zext64 b <<< (8 * n)).toNat
        ≤ (zext64 b).toNat * 2 ^ (8 * n) := by
          rw [BitVec.toNat_shiftLeft, Nat.shiftLeft_eq]; exact Nat.mod_le _ _
      _ < 2 ^ (8 * (n + 1)) := by rw [hpow]; exact Nat.mul_lt_mul_of_pos_right hb (by positivity)
  have hacc : a.toNat < 2 ^ (8 * (n + 1)) := ha.trans_le (Nat.pow_le_pow_right two_pos (by omega))
  rw [BitVec.toNat_or]
  exact Nat.or_lt_two_pow hacc hbyte

theorem accFits_pcgByte {r : PcgRegs} (b : Byte) (h : AccFits r) : AccFits (pcgByte b r) := by
  intro hph
  rw [pcgByte_ph] at hph
  by_cases hfull : r.cnt = 7#3
  · simp [pcgByte_of_full hfull]
  · have hcnt : (r.cnt + 1#3).toNat = r.cnt.toNat + 1 := by bv_omega
    simp only [pcgByte_of_room hfull, hcnt]
    exact or_byte_toNat_lt b (h hph)

theorem accFits_pcgAdvance {r : PcgRegs} (o : Operation) (b : Byte) (h : AccFits r) : AccFits (pcgAdvance o b r) := by
  cases o with
  | entropy => exact h
  | seedStart => intro _; simp [pcgAdvance]
  | seedByte => exact accFits_pcgByte b h
  | seedEnd => exact accFits_of_ph_ne (by simp [pcgAdvance])
  | next => intro hph; simpa [pcgAdvance] using h (by simpa [pcgAdvance] using hph)

/-! ### Every answer of a command keeps the invariant -/

theorem output_wellFormed (e : Engine) (o : Operation) (s : State) : (output e o s).wellFormed := by
  unfold output
  split
  · cases e with
    | pcg => exact pcgResponse_wellFormed _
    | x256 => exact x256Response_wellFormed _
    | x128 => exact x128Response_wellFormed _
  · exact bareResponse_wellFormed .ok

theorem stateInv_advance {s : State} (e : Engine) (o : Operation) (b : Byte) (h : StateInv s) :
    StateInv (advance e o b s) := by
  cases e with
  | pcg => exact stateInv_setPcg h (accFits_pcgAdvance o b (accFits_of_stateInv h))
  | x256 => exact stateInv_setX256 h
  | x128 => exact stateInv_setX128 h

theorem stateInv_load {s : State} (e : Engine) (d : List Byte) (h : StateInv s) : StateInv (load e d s) := by
  cases e with
  | pcg => exact stateInv_setPcg h (accFits_of_ph_ne (by simp))
  | x256 => exact stateInv_setX256 h
  | x128 => exact stateInv_setX128 h

theorem stateInv_hardReset {s : State} (h : StateInv s) : StateInv (hardReset s) := by
  refine ⟨accFits_of_ph_ne ?_, h.2⟩
  rw [hardReset_pcg, pcgAfterReset_ph]
  split <;> decide

theorem exec_keeps_stateInv {i : Instr} {s t : State} (h : StateInv s) (ht : exec i s = .next t) : StateInv t := by
  obtain ⟨d, -, rfl⟩ | rfl | rfl | ⟨-, rfl⟩ | rfl := exec_next ht
  · exact stateInv_respond (stateInv_load _ d (stateInv_takeReply h)) (bareResponse_wellFormed .ok)
  · exact stateInv_raise (stateInv_takeReply h)
  · exact stateInv_takeReply h
  · exact stateInv_respond (stateInv_advance _ _ _ h) (output_wellFormed _ _ s)
  · exact stateInv_raise h

theorem runWord_keeps_stateInv {w : CmdWord} {s t : State} (h : StateInv s) (ht : runWord w s = .next t) :
    StateInv t := by
  obtain ⟨i, -, hi⟩ | rfl := runWord_next ht
  · exact exec_keeps_stateInv h hi
  · exact stateInv_raise h

/-- Settles O43, by the three things a step can do. -/
theorem stepKeepsInvariant : Obligations.StepKeepsInvariant := by
  unfold Obligations.StepKeepsInvariant
  intro s t h ht
  obtain ⟨-, rfl⟩ | ⟨w, rest, -, hw⟩ | ⟨rest, -, rfl⟩ := step_next ht
  · exact h
  · exact runWord_keeps_stateInv (stateInv_setInputs h) hw
  · exact stateInv_hardReset (stateInv_setInputs h)

/-- Settles O44: after reset `PCG` is not seeding and no response has been given. -/
theorem resetMeetsInvariant : Obligations.ResetMeetsInvariant := by
  unfold Obligations.ResetMeetsInvariant
  exact ⟨accFits_of_ph_ne (by decide), fun r hr => absurd hr List.not_mem_nil⟩

end Sys2Proof.Proofs.Invariant
end

section
/-! PROOFS. O42: no command reads a register that has not been written since reset (10_state.md R34, 70_reset_and_hazards.md R181).
Two states that agree in what can be read stay so over every step, and stop alike. -/

namespace Sys2Proof.Proofs.Unread

open Sys2Proof.Machine Sys2Proof.Proofs.Commands

/-! ### The registers of one engine -/

theorem pcgAgree_refl (r : PcgRegs) : r.agree r := ⟨rfl, fun _ => ⟨rfl, rfl, rfl⟩, fun _ => rfl⟩

theorem x256Agree_refl (p : Bool) (r : X256Regs) : r.agree p r := ⟨rfl, fun _ => ⟨rfl, fun _ => rfl⟩, fun _ => rfl⟩

theorem x128Agree_refl (p : Bool) (r : X128Regs) : r.agree p r := ⟨rfl, fun _ => ⟨rfl, fun _ => rfl⟩, fun _ => rfl⟩

/-- While `PCG` is seeding a command can read all its registers. -/
theorem eq_of_pcgAgree_seeding {a b : PcgRegs} (h : a.agree b) (hph : a.ph = .seeding) : a = b := by
  obtain ⟨hphases, hseeding, -⟩ := h
  obtain ⟨hs, hacc, hcnt⟩ := hseeding hph
  cases a; cases b
  simp_all

/-- Where a command leaves the engine `READY`, agreement is that of the state. -/
theorem pcgAgree_of_ready {a b : PcgRegs} (ha : a.ph = .ready) (hb : b.ph = .ready) (hs : a.s = b.s) : a.agree b :=
  ⟨ha.trans hb.symm, fun h => by simp [ha] at h, fun _ => hs⟩

theorem x256Agree_of_ready {p : Bool} {a b : X256Regs} (ha : a.ph = .ready) (hb : b.ph = .ready) (hst : a.st = b.st) :
    a.agree p b := ⟨ha.trans hb.symm, fun h => by simp [ha] at h, fun _ => hst⟩

theorem x128Agree_of_ready {p : Bool} {a b : X128Regs} (ha : a.ph = .ready) (hb : b.ph = .ready) (hst : a.st = b.st) :
    a.agree p b := ⟨ha.trans hb.symm, fun h => by simp [ha] at h, fun _ => hst⟩

/-- Where it leaves the engine `SEEDING`, agreement is that of the hash and of the counter, if there is one. -/
theorem x256Agree_of_seeding {p : Bool} {a b : X256Regs} (ha : a.ph = .seeding) (hb : b.ph = .seeding) (hh : a.h = b.h)
    (hcnt : p = true → a.cnt = b.cnt) : a.agree p b :=
  ⟨ha.trans hb.symm, fun _ => ⟨hh, hcnt⟩, fun h => by simp [ha] at h⟩

theorem x128Agree_of_seeding {p : Bool} {a b : X128Regs} (ha : a.ph = .seeding) (hb : b.ph = .seeding) (hh : a.h = b.h)
    (hcnt : p = true → a.cnt = b.cnt) : a.agree p b :=
  ⟨ha.trans hb.symm, fun _ => ⟨hh, hcnt⟩, fun h => by simp [ha] at h⟩

/-- The byte counter is read and written only where `XSR_SEED_PADDED` is true (92_eei_decisions.md D11). -/
theorem finishHash_congr {p : Bool} {c c' : BitVec 3} {h h' : Word64} (hh : h = h') (hc : p = true → c = c') :
    finishHash p c h = finishHash p c' h' := by
  cases p with
  | false => exact hh
  | true => rw [hh, hc rfl]

theorem countByte_congr {p : Bool} {old old' new new' : BitVec 3} (hp : p = true) (hnew : new = new') :
    countByte p old new = countByte p old' new' := by subst hp; exact hnew

theorem pcgAdvance_agree {a b : PcgRegs} {o : Operation} (x : Byte) (h : a.agree b) (hl : legalIn o a.ph = true) :
    (pcgAdvance o x a).agree (pcgAdvance o x b) := by
  cases o with
  | entropy => exact h
  | seedStart => simp only [pcgAdvance, pcgStart_eq]; exact pcgAgree_refl _
  | seedByte | seedEnd =>
    rw [eq_of_pcgAgree_seeding h (by simpa using hl)]
    exact pcgAgree_refl _
  | next =>
    obtain ⟨hph, -, hready⟩ := h
    have ha : a.ph = .ready := by simpa using hl
    exact pcgAgree_of_ready (by simpa [pcgAdvance]) (by simpa [pcgAdvance] using hph ▸ ha)
      (by simp [pcgAdvance, hready ha])

theorem x256Advance_agree {p : Bool} {a b : X256Regs} {o : Operation} (x : Byte) (h : a.agree p b)
    (hl : legalIn o a.ph = true) : (x256Advance p o x a).agree p (x256Advance p o x b) := by
  obtain ⟨hph, hseeding, hready⟩ := h
  cases o with
  | entropy => exact ⟨hph, hseeding, hready⟩
  | seedStart =>
    refine x256Agree_of_seeding (x256Start_ph p a) (x256Start_ph p b) ?_ fun hp => ?_
    · simp [x256Advance]
    · simpa [x256Advance] using countByte_congr hp rfl
  | seedByte =>
    have ha : a.ph = .seeding := by simpa using hl
    obtain ⟨hh, hcnt⟩ := hseeding ha
    refine x256Agree_of_seeding (by simpa [x256Advance]) (by simpa [x256Advance] using hph ▸ ha) ?_ fun hp => ?_
    · simp [x256Advance, hh]
    · simpa [x256Advance] using countByte_congr hp (by rw [hcnt hp])
  | seedEnd =>
    obtain ⟨hh, hcnt⟩ := hseeding (by simpa using hl)
    refine x256Agree_of_ready (x256End_ph p a) (x256End_ph p b) ?_
    simp [x256Advance, finishHash_congr hh hcnt]
  | next =>
    have ha : a.ph = .ready := by simpa using hl
    exact x256Agree_of_ready (by simpa [x256Advance]) (by simpa [x256Advance] using hph ▸ ha)
      (by simp [x256Advance, hready ha])

theorem x128Advance_agree {p : Bool} {a b : X128Regs} {o : Operation} (x : Byte) (h : a.agree p b)
    (hl : legalIn o a.ph = true) : (x128Advance p o x a).agree p (x128Advance p o x b) := by
  obtain ⟨hph, hseeding, hready⟩ := h
  cases o with
  | entropy => exact ⟨hph, hseeding, hready⟩
  | seedStart =>
    refine x128Agree_of_seeding (x128Start_ph p a) (x128Start_ph p b) ?_ fun hp => ?_
    · simp [x128Advance]
    · simpa [x128Advance] using countByte_congr hp rfl
  | seedByte =>
    have ha : a.ph = .seeding := by simpa using hl
    obtain ⟨hh, hcnt⟩ := hseeding ha
    refine x128Agree_of_seeding (by simpa [x128Advance]) (by simpa [x128Advance] using hph ▸ ha) ?_ fun hp => ?_
    · simp [x128Advance, hh]
    · simpa [x128Advance] using countByte_congr hp (by rw [hcnt hp])
  | seedEnd =>
    obtain ⟨hh, hcnt⟩ := hseeding (by simpa using hl)
    refine x128Agree_of_ready (x128End_ph p a) (x128End_ph p b) ?_
    simp [x128Advance, finishHash_congr hh hcnt]
  | next =>
    have ha : a.ph = .ready := by simpa using hl
    exact x128Agree_of_ready (by simpa [x128Advance]) (by simpa [x128Advance] using hph ▸ ha)
      (by simp [x128Advance, hready ha])

/-! ### The state -/

theorem phaseOf_eq {s t : State} (h : agreeReadable s t) (e : Engine) : s.phaseOf e = t.phaseOf e := by
  obtain ⟨hpcg, hx256, hx128, -⟩ := h
  cases e with
  | pcg => exact hpcg.1
  | x256 => exact hx256.1
  | x128 => exact hx128.1

theorem params_eq {s t : State} (h : agreeReadable s t) : s.params = t.params := by
  obtain ⟨-, -, -, hparams, -⟩ := h
  exact hparams

theorem inputs_eq {s t : State} (h : agreeReadable s t) : s.inputs = t.inputs := by
  obtain ⟨-, -, -, -, hinputs, -⟩ := h
  exact hinputs

theorem entropyPending_eq {s t : State} (h : agreeReadable s t) : s.entropyPending = t.entropyPending := by
  obtain ⟨-, -, -, -, -, -, -, hpending, -⟩ := h
  exact hpending

theorem entropyReply_eq {s t : State} (h : agreeReadable s t) (n : Nat) : entropyReply n s = entropyReply n t := by
  obtain ⟨-, -, -, -, -, hreplies, hrequests, -⟩ := h
  exact entropyReply_congr n hreplies hrequests

theorem agreeReadable_advance {s t : State} {e : Engine} {o : Operation} (b : Byte) (h : agreeReadable s t)
    (hl : legalIn o (s.phaseOf e) = true) : agreeReadable (advance e o b s) (advance e o b t) := by
  have hparams := params_eq h
  have ⟨hpcg, hx256, hx128, _⟩ := h
  cases e with
  | pcg => exact agreeReadable_setPcg h (pcgAdvance_agree b hpcg hl)
  | x256 => exact agreeReadable_setX256 h (hparams ▸ x256Advance_agree b hx256 hl)
  | x128 => exact agreeReadable_setX128 h (hparams ▸ x128Advance_agree b hx128 hl)

theorem agreeReadable_load {s t : State} (e : Engine) (d : List Byte) (h : agreeReadable s t) :
    agreeReadable (load e d s) (load e d t) := by
  cases e with
  | pcg => exact agreeReadable_setPcg h (pcgAgree_of_ready (pcgLoad_ph d _) (pcgLoad_ph d _) (by simp))
  | x256 => exact agreeReadable_setX256 h (x256Agree_of_ready (x256Load_ph d _) (x256Load_ph d _) (by simp))
  | x128 => exact agreeReadable_setX128 h (x128Agree_of_ready (x128Load_ph d _) (x128Load_ph d _) (by simp))

/-- A command that takes effect answers only from registers that can be read. -/
theorem output_eq {s t : State} {e : Engine} {o : Operation} (h : agreeReadable s t)
    (hl : legalIn o (s.phaseOf e) = true) : output e o s = output e o t := by
  unfold output
  split
  · rename_i ho
    subst ho
    rw [legalIn_next] at hl
    obtain ⟨⟨-, -, hpcg⟩, ⟨-, -, hx256⟩, ⟨-, -, hx128⟩, -⟩ := h
    cases e with
    | pcg => exact congrArg pcgResponse (hpcg hl)
    | x256 => exact congrArg x256Response (hx256 hl)
    | x128 => exact congrArg x128Response (hx128 hl)
  · rfl

theorem agreeReadable_raise {s t : State} (c : Status) (h : agreeReadable s t) :
    agreeReadable (raise c s) (raise c t) := agreeReadable_respond h

theorem agreeReadable_awaitReply {s t : State} (h : agreeReadable s t) :
    agreeReadable (awaitReply s) (awaitReply t) := by
  obtain ⟨h1, h2, h3, h4, h5, h6, h7, -, h9, h10⟩ := agreeReadable_takeReply h
  exact ⟨h1, h2, h3, h4, h5, h6, h7, rfl, h9, h10⟩

/-- After a reset all registers are the same: they are functions of the parameters and of the number of resets. -/
theorem agreeReadable_hardReset {s t : State} (h : agreeReadable s t) : agreeReadable (hardReset s) (hardReset t) := by
  obtain ⟨-, -, -, hparams, hinputs, hreplies, hrequests, -, hresponses, hresets⟩ := h
  refine ⟨?_, ?_, ?_, hparams, hinputs, hreplies, hrequests, rfl, hresponses, congrArg (· + 1) hresets⟩
  · rw [hardReset_pcg, hardReset_pcg, hparams, hresets]; exact pcgAgree_refl _
  · rw [hardReset_x256, hardReset_x256, hparams, hresets]; exact x256Agree_refl _ _
  · rw [hardReset_x128, hardReset_x128, hparams, hresets]; exact x128Agree_refl _ _

/-! ### Answers that agree -/

/-- Two answers of the machine agree: next states in what can be read, and stops in their reason. -/
def AgreeOutcomes : Host.Outcome State Fault Refusal → Host.Outcome State Fault Refusal → Prop
  | .next s, .next t => agreeReadable s t
  | .fault r, .fault r' => r = r'
  | .refused r, .refused r' => r = r'
  | _, _ => False

theorem acceptCommand_agree {s t : State} {a b : Host.Outcome State Fault Refusal}
    (hpending : s.entropyPending = t.entropyPending) (h : AgreeOutcomes a b) :
    AgreeOutcomes (acceptCommand s a) (acceptCommand t b) := by
  cases hs : s.entropyPending with
  | false => rwa [acceptCommand_of_free hs, acceptCommand_of_free (hpending ▸ hs)]
  | true => rw [acceptCommand_of_waiting hs, acceptCommand_of_waiting (hpending ▸ hs)]; rfl

theorem exec_agree (i : Instr) {s t : State} (h : agreeReadable s t) : AgreeOutcomes (exec i s) (exec i t) := by
  by_cases hi : i.operation = .entropy
  · have hreply := entropyReply_eq h (entropyBytes i.engine)
    rw [exec_of_entropy hi, exec_of_entropy hi]
    cases hs : entropyReply (entropyBytes i.engine) s with
    | bytes d =>
      rw [constructFromEntropy_bytes hs, constructFromEntropy_bytes (hreply ▸ hs)]
      exact agreeReadable_respond (agreeReadable_load _ d (agreeReadable_takeReply h))
    | fail =>
      rw [constructFromEntropy_fail hs, constructFromEntropy_fail (hreply ▸ hs)]
      exact agreeReadable_raise _ (agreeReadable_takeReply h)
    | silent =>
      rw [constructFromEntropy_silent hs, constructFromEntropy_silent (hreply ▸ hs)]
      exact agreeReadable_awaitReply h
  · have hph := phaseOf_eq h i.engine
    cases hl : legalIn i.operation (s.phaseOf i.engine) with
    | true =>
      rw [exec_of_legal hi hl, exec_of_legal hi (hph ▸ hl), output_eq h hl]
      exact agreeReadable_respond (agreeReadable_advance _ h hl)
    | false =>
      rw [exec_of_illegal hi hl, exec_of_illegal hi (hph ▸ hl)]
      exact agreeReadable_raise _ h

theorem runWord_agree (w : CmdWord) {s t : State} (h : agreeReadable s t) :
    AgreeOutcomes (runWord w s) (runWord w t) := by
  cases hd : decode w with
  | command i => rw [runWord_of_command hd, runWord_of_command hd]; exact exec_agree i h
  | illegal why => rw [runWord_of_illegal hd, runWord_of_illegal hd]; exact agreeReadable_raise _ h

theorem step_agree {s t : State} (h : agreeReadable s t) : AgreeOutcomes (step s) (step t) := by
  have hinputs := inputs_eq h
  match hs : s.inputs with
  | [] =>
    rw [step_of_nil hs, step_of_nil (hinputs ▸ hs)]
    exact acceptCommand_agree (entropyPending_eq h) h
  | .command w :: rest =>
    rw [step_of_word hs, step_of_word (hinputs ▸ hs)]
    exact acceptCommand_agree (entropyPending_eq h) (runWord_agree w (agreeReadable_setInputs h))
  | .reset :: rest =>
    rw [step_of_reset hs, step_of_reset (hinputs ▸ hs)]
    exact agreeReadable_hardReset (agreeReadable_setInputs h)

theorem runFor_agree (k : Nat) {s t : State} (h : agreeReadable s t) : AgreeOutcomes (runFor k s) (runFor k t) := by
  induction k generalizing s t with
  | zero => exact h
  | succ k ih =>
    have hstep := step_agree h
    unfold runFor
    match step s, step t, hstep with
    | .next _, .next _, hnext => exact ih hnext
    | .fault _, .fault _, hfault => exact hfault
    | .refused _, .refused _, hrefused => exact hrefused

/-- Settles O42, by induction on the number of steps. -/
theorem unwrittenRegistersUnread : Obligations.UnwrittenRegistersUnread := by
  unfold Obligations.UnwrittenRegistersUnread
  intro k s t h
  have hrun := runFor_agree k h
  match runFor k s, runFor k t, hrun with
  | .next _, .next t', hnext => exact ⟨fun _ hs => ⟨t', rfl, Host.Outcome.next.inj hs ▸ hnext⟩, nofun⟩
  | .fault _, .fault _, hfault => exact ⟨nofun, fun _ hs => hfault ▸ hs⟩
  | .refused _, .refused _, _ => exact ⟨nofun, nofun⟩

end Sys2Proof.Proofs.Unread
end

section
/-! PROOFS. O41: what a constructed engine answers to `E.NEXTN k` (10_state.md R29, 30_encoding.md R69, 70_reset_and_hazards.md
R184). A run of `k` output steps is the `k`-th iterate of one function on states, whose closed form is found by induction. -/

namespace Sys2Proof.Proofs.Streams

open Sys2Proof.Machine Sys2Proof.Proofs.Commands

/-- The state after an output step of a constructed engine. -/
def outputStep (e : Engine) (s : State) : State := respond (nextOutput e s) (advance e .next 0x00#8 s)

/-! ### A run of output steps is an iterate -/

theorem decode_encode_next (e : Engine) : decode (encode (instrOf e .next 0x00#8)) = .command (instrOf e .next 0x00#8) := by
  cases e <;> rfl

theorem exec_outputStep {e : Engine} {s : State} (h : s.phaseOf e = .ready) :
    exec (instrOf e .next 0x00#8) s = .next (outputStep e s) := by
  have hop := instrOf_operation e .next 0x00#8
  have heng := instrOf_engine e .next 0x00#8
  have himm : (instrOf e .next 0x00#8).imm8 = 0x00#8 := by cases e <;> rfl
  rw [exec_of_legal (by rw [hop]; decide) (by rwa [hop, heng, legalIn_next]), hop, heng, himm, output_next, outputStep]

theorem step_outputStep {e : Engine} {s : State} {rest : List Input} (hfree : s.entropyPending = false)
    (hin : s.inputs = .command (encode (instrOf e .next 0x00#8)) :: rest) (h : s.phaseOf e = .ready) :
    step s = .next (outputStep e (s.setInputs rest)) := by
  rw [step_of_word hin, acceptCommand_of_free hfree, runWord_of_command (decode_encode_next e),
    exec_outputStep ((phaseOf_setInputs rest s e).trans h)]

@[simp] theorem outputStep_entropyPending (e : Engine) (s : State) :
    (outputStep e s).entropyPending = s.entropyPending :=
  (respond_entropyPending _ _).trans (advance_entropyPending e _ _ s)

@[simp] theorem outputStep_inputs (e : Engine) (s : State) : (outputStep e s).inputs = s.inputs :=
  (respond_inputs _ _).trans (advance_inputs e _ _ s)

@[simp] theorem outputStep_setInputs (e : Engine) (l : List Input) (s : State) :
    (outputStep e s).setInputs l = outputStep e (s.setInputs l) := by cases e <;> rfl

theorem outputStep_keeps_ready {e : Engine} {s : State} (h : s.phaseOf e = .ready) : (outputStep e s).phaseOf e = .ready :=
  (phaseOf_respond _ _ e).trans (phaseOf_advance _ (by decide) ((legalIn_next _).2 h))

theorem runFor_nextProgram {e : Engine} (k : Nat) (rest : List Input) {s : State} (hfree : s.entropyPending = false)
    (hin : s.inputs = sends (nextProgram e k) ++ rest) (h : s.phaseOf e = .ready) :
    runFor k s = .next ((outputStep e)^[k] (s.setInputs rest)) := by
  induction k generalizing s with
  | zero =>
    obtain rfl : s.inputs = rest := hin
    rfl
  | succ k ih =>
    have hstep := step_outputStep hfree hin h
    rw [runFor_succ_of_next hstep, ih (by simpa) (by simp [sends, nextProgram])
      (outputStep_keeps_ready ((phaseOf_setInputs _ s e).trans h)), outputStep_setInputs, Function.iterate_succ_apply]
    rfl

/-! ### The closed form of the iterate -/

theorem outputStep_pcg (s : State) : outputStep .pcg s = { s with
    pcg := { s.pcg with s := pcgLcg s.pcg.s }
    responses := pcgResponse s.pcg.s :: s.responses } := by
  simp [outputStep, nextOutput, advance, pcgAdvance, pcgStep, respond, State.setPcg]

theorem outputStep_x256 (s : State) : outputStep .x256 s = { s with
    x256 := { s.x256 with st := x256Update s.x256.st }
    responses := x256Response s.x256.st :: s.responses } := by
  simp [outputStep, nextOutput, advance, x256Advance, x256Step, respond, State.setX256]

theorem outputStep_x128 (s : State) : outputStep .x128 s = { s with
    x128 := { s.x128 with st := x128Update s.x128.st }
    responses := x128Response s.x128.st :: s.responses } := by
  simp [outputStep, nextOutput, advance, x128Advance, x128Step, respond, State.setX128]

/-- The outputs of `k + 1` successive states, newest first: that of the last one before those of the first `k`. -/
theorem stream_succ {α : Type} (out : α → Response) (f : α → α) (x : α) (k : Nat) :
    ((List.range (k + 1)).map fun j => out (f^[j] x)).reverse =
      out (f^[k] x) :: ((List.range k).map fun j => out (f^[j] x)).reverse := by
  simp [List.range_succ]

theorem outputStep_iterate_pcg (k : Nat) (s : State) : (outputStep .pcg)^[k] s = { s with
    pcg := { s.pcg with s := pcgLcg^[k] s.pcg.s }
    responses := ((List.range k).map fun j => pcgResponse (pcgLcg^[j] s.pcg.s)).reverse ++ s.responses } := by
  induction k with
  | zero => rfl
  | succ k ih => rw [Function.iterate_succ_apply', ih, outputStep_pcg, Function.iterate_succ_apply', stream_succ]; rfl

theorem outputStep_iterate_x256 (k : Nat) (s : State) : (outputStep .x256)^[k] s = { s with
    x256 := { s.x256 with st := x256Update^[k] s.x256.st }
    responses := ((List.range k).map fun j => x256Response (x256Update^[j] s.x256.st)).reverse ++ s.responses } := by
  induction k with
  | zero => rfl
  | succ k ih => rw [Function.iterate_succ_apply', ih, outputStep_x256, Function.iterate_succ_apply', stream_succ]; rfl

theorem outputStep_iterate_x128 (k : Nat) (s : State) : (outputStep .x128)^[k] s = { s with
    x128 := { s.x128 with st := x128Update^[k] s.x128.st }
    responses := ((List.range k).map fun j => x128Response (x128Update^[j] s.x128.st)).reverse ++ s.responses } := by
  induction k with
  | zero => rfl
  | succ k ih => rw [Function.iterate_succ_apply', ih, outputStep_x128, Function.iterate_succ_apply', stream_succ]; rfl

/-- Settles O41, by the iterate of the output step and its closed form for each engine. -/
theorem nextStreams : Obligations.NextStreams := by
  unfold Obligations.NextStreams
  intro k rest s hfree
  refine ⟨fun hin h => ?_, fun hin h => ?_, fun hin h => ?_⟩
  · rw [runFor_nextProgram k rest hfree hin h, outputStep_iterate_pcg]; rfl
  · rw [runFor_nextProgram k rest hfree hin h, outputStep_iterate_x256]; rfl
  · rw [runFor_nextProgram k rest hfree hin h, outputStep_iterate_x128]; rfl

end Sys2Proof.Proofs.Streams
end

section
/-! PROOFS. O35, O34: the commands of one engine do not see those of another, one command at a time and run by run (20_memory.md
R51, 70_reset_and_hazards.md R186). -/

namespace Sys2Proof.Proofs.Interleaving

open Sys2Proof.Machine Sys2Proof.Proofs.Commands Sys2Proof.Proofs.Ownership

theorem sameEngine_symm {e : Engine} {s t : State} (h : sameEngine e s t) : sameEngine e t s := by
  cases e <;> exact Eq.symm h

theorem sameEngine_trans {e : Engine} {s t u : State} (h : sameEngine e s t) (h' : sameEngine e t u) : sameEngine e s u := by
  cases e <;> exact Eq.trans h h'

/-! ### What a command leaves at the ports -/

@[simp] theorem advance_params (e : Engine) (o : Operation) (b : Byte) (s : State) :
    (advance e o b s).params = s.params := by cases e <;> rfl

@[simp] theorem load_params (e : Engine) (d : List Byte) (s : State) : (load e d s).params = s.params := by cases e <;> rfl

@[simp] theorem awaitReply_params (s : State) : (awaitReply s).params = s.params := rfl

@[simp] theorem advance_entropyReplies (e : Engine) (o : Operation) (b : Byte) (s : State) :
    (advance e o b s).entropyReplies = s.entropyReplies := by cases e <;> rfl

@[simp] theorem advance_entropyRequests (e : Engine) (o : Operation) (b : Byte) (s : State) :
    (advance e o b s).entropyRequests = s.entropyRequests := by cases e <;> rfl

theorem exec_keeps_params {i : Instr} {s t : State} (ht : exec i s = .next t) : s.params = t.params := by
  obtain ⟨d, -, rfl⟩ | rfl | rfl | ⟨-, rfl⟩ | rfl := exec_next ht <;> simp

theorem exec_keeps_entropyReply {i : Instr} {s t : State} (hi : i.operation ≠ .entropy) (ht : exec i s = .next t) (n : Nat) :
    entropyReply n s = entropyReply n t := by
  rw [exec_of_not_entropy hi] at ht
  obtain ⟨-, rfl⟩ | ⟨-, rfl⟩ := inPhase_next ht <;> apply entropyReply_congr <;> simp

/-- Every command answers a next state, whose responses extend those given before. -/
theorem exec_answers (i : Instr) (s : State) : ∃ t given, exec i s = .next t ∧ t.responses = given ++ s.responses := by
  have hself : SameAnswer i s s := by
    by_cases hi : i.operation = .entropy
    · exact sameAnswer_of_entropy hi (sameEngine_refl _ s) rfl
    · exact sameAnswer_of_not_entropy hi (sameEngine_refl _ s) rfl
  obtain ⟨t, -, given, ht, -, -, hgiven, -⟩ := hself
  exact ⟨t, given, ht, hgiven⟩

/-! ### Two commands of different engines -/

/-- A command answers the same before and after a command of another engine, unless both draw from the entropy source. -/
theorem sameAnswer_after_other {i j : Instr} {s a : State} (ha : exec i s = .next a) (hne : j.engine ≠ i.engine)
    (hent : i.operation ≠ .entropy ∨ j.operation ≠ .entropy) : SameAnswer j s a := by
  have hown := exec_sameEngine_of_ne ha hne
  by_cases hj : j.operation = .entropy
  · have hi := hent.resolve_right (not_not_intro hj)
    exact sameAnswer_of_entropy hj hown (exec_keeps_entropyReply hi ha _)
  · exact sameAnswer_of_not_entropy hj hown (exec_keeps_params ha)

/-- A command keeps the agreement of two states in any engine, when it leaves its own engine the same in both. -/
theorem exec_keeps_sameEngine {e : Engine} {j : Instr} {s a c b : State} (hc : exec j s = .next c) (hb : exec j a = .next b)
    (hown : sameEngine j.engine c b) (h : sameEngine e s a) : sameEngine e c b := by
  by_cases he : e = j.engine
  · exact he ▸ hown
  · have hsc := exec_sameEngine_of_ne hc he
    have hab := exec_sameEngine_of_ne hb he
    exact sameEngine_trans (sameEngine_symm hsc) (sameEngine_trans h hab)

/-- Settles O34: each command answers after the other as it does before it, so that in both orders the engine of `i` is as `i`
alone leaves it, and every other engine as `j` alone leaves it. -/
theorem enginesCommute : Obligations.EnginesCommute := by
  unfold Obligations.EnginesCommute
  intro i j s hne hent
  obtain ⟨a, -, ha, -⟩ := exec_answers i s
  obtain ⟨c, b, rj, hc, hb, hcb, hcr, hbr⟩ := sameAnswer_after_other ha hne.symm hent
  obtain ⟨a', d, ri, ha', hd, had, har, hdr⟩ := sameAnswer_after_other hc hne hent.symm
  obtain rfl : a = a' := Host.Outcome.next.inj (ha.symm.trans ha')
  refine ⟨a, b, c, d, ri, rj, ha, hb, hc, hd, fun e => ?_, har, hbr, hcr, hdr⟩
  by_cases he : e = i.engine
  · have hsc : sameEngine e s c := exec_sameEngine_of_ne hc (he ▸ hne)
    have hab : sameEngine e a b := exec_sameEngine_of_ne hb (he ▸ hne)
    exact sameEngine_trans (sameEngine_symm hab) (exec_keeps_sameEngine ha hd had hsc)
  · have hsa : sameEngine e s a := exec_sameEngine_of_ne ha he
    have hcd : sameEngine e c d := exec_sameEngine_of_ne hd he
    exact sameEngine_trans (sameEngine_symm (exec_keeps_sameEngine hc hb hcb hsa)) hcd

/-! ### Runs, and what one engine sees of them -/

/-- What holds between an interleaved run and the run of the commands of `e` alone: the states `s` and `s'` they have reached
agree in `e` and in the parameters, and the responses of the second are among those of the first. -/
structure ProjectsTo (e : Engine) (s s' : State) : Prop where
  engine : sameEngine e s s'
  params : s.params = s'.params
  responses : s'.responses.Sublist s.responses

theorem projectsTo_refl (e : Engine) (s : State) : ProjectsTo e s s := ⟨sameEngine_refl e s, rfl, List.Sublist.refl _⟩

/-- A command of another engine is not seen. -/
theorem projectsTo_exec_other {e : Engine} {i : Instr} {s s' : State} (h : ProjectsTo e s s') (hi : e ≠ i.engine) :
    ∃ t, exec i s = .next t ∧ ProjectsTo e t s' := by
  obtain ⟨t, given, ht, hgiven⟩ := exec_answers i s
  refine ⟨t, ht, sameEngine_trans (sameEngine_symm (exec_sameEngine_of_ne ht hi)) h.engine,
    (exec_keeps_params ht).symm.trans h.params, ?_⟩
  rw [hgiven]
  exact h.responses.trans (List.sublist_append_right given s.responses)

/-- A command of the engine itself does the same in both runs. -/
theorem projectsTo_exec_own {i : Instr} {s s' : State} (h : ProjectsTo i.engine s s') (hi : i.operation ≠ .entropy) :
    ∃ t t', exec i s = .next t ∧ exec i s' = .next t' ∧ ProjectsTo i.engine t t' := by
  obtain ⟨t, t', given, ht, ht', hsame, hr, hr'⟩ := sameAnswer_of_not_entropy hi h.engine h.params
  refine ⟨t, t', ht, ht', hsame, (exec_keeps_params ht).symm.trans (h.params.trans (exec_keeps_params ht')), ?_⟩
  rw [hr, hr']
  exact h.responses.append_left given

theorem projectsTo_execAll {e : Engine} {is : List Instr} {s s' : State} (his : ∀ i ∈ is, i.operation ≠ .entropy)
    (h : ProjectsTo e s s') :
    ∃ t t', execAll is s = .next t ∧ execAll (is.filter fun i => decide (i.engine = e)) s' = .next t' ∧ ProjectsTo e t t' := by
  induction is generalizing s s' with
  | nil => exact ⟨s, s', rfl, rfl, h⟩
  | cons i is ih =>
    obtain ⟨hi, hrest⟩ := List.forall_mem_cons.1 his
    by_cases he : i.engine = e
    · subst he
      obtain ⟨t, t', ht, ht', hproj⟩ := projectsTo_exec_own h hi
      rw [execAll_cons_of_next ht, List.filter_cons_of_pos (by simp), execAll_cons_of_next ht']
      exact ih hrest hproj
    · obtain ⟨t, ht, hproj⟩ := projectsTo_exec_other h (Ne.symm he)
      rw [execAll_cons_of_next ht, List.filter_cons_of_neg (by simpa using he)]
      exact ih hrest hproj

/-- Settles O35, by induction on the commands: `ProjectsTo` holds of a state and itself, and every command keeps it. -/
theorem interleavingProjects : Obligations.InterleavingProjects := by
  unfold Obligations.InterleavingProjects
  intro is e s his
  obtain ⟨t, t', ht, ht', hproj⟩ := projectsTo_execAll his (projectsTo_refl e s)
  exact ⟨t, t', ht, ht', hproj.engine, hproj.responses⟩

end Sys2Proof.Proofs.Interleaving
end

section
/-! PROOFS. O6: what a step does with the word at the port (20_memory.md R46, 30_encoding.md R65). -/

namespace Sys2Proof.Proofs.Port

open Sys2Proof.Machine

theorem step_of_command {s : State} {w : CmdWord} {rest : List Input} {i : Instr} (hin : s.inputs = .command w :: rest)
    (hfree : s.entropyPending = false) (hd : decode w = .command i) : step s = exec i (s.setInputs rest) := by
  rw [step_of_word hin, acceptCommand_of_free hfree, runWord_of_command hd]

/-- Settles O6: a free block takes the word, and runs what it decodes to. -/
theorem stepRunsDecodedCommand : Obligations.StepRunsDecodedCommand := by
  unfold Obligations.StepRunsDecodedCommand
  intro s w rest i hin hfree hd
  exact step_of_command hin hfree hd

end Sys2Proof.Proofs.Port
end

section
/-! PROOFS. O2, O3, O1, O5, O4: the decoder and the encoder are inverse to each other, and what a word's fields decode to
(30_encoding.md R55 to R61, R65). Proofs about commands go through `decode_eq_command_iff`: a word decodes to a command if and
only if it is that command's word. -/

namespace Sys2Proof.Proofs.Encoding

open Sys2Proof.Machine Sys2Proof.Proofs.Commands

/-! ### A word and its fields -/

theorem toWord_ofWord (w : CmdWord) : (CommandFields.ofWord w).toWord = w := by
  have hunit : w.extractLsb' 13 3 ++ w.extractLsb' 11 2 = w.extractLsb' 11 5 :=
    BitVec.extractLsb'_append_extractLsb'_eq_extractLsb' rfl
  have hop : w.extractLsb' 11 5 ++ w.extractLsb' 8 3 = w.extractLsb' 8 8 :=
    BitVec.extractLsb'_append_extractLsb'_eq_extractLsb' rfl
  simp only [CommandFields.ofWord, CommandFields.toWord, hunit, hop]
  exact BitVec.extractLsb'_append_extractLsb' (w := 8) (len := 8)

theorem ofWord_toWord (f : CommandFields) : CommandFields.ofWord f.toWord = f := by
  have hrsv : f.toWord.extractLsb' 13 3 = f.rsv :=
    calc f.toWord.extractLsb' 13 3
        = (f.rsv ++ f.unit ++ f.op).extractLsb' 5 3 := BitVec.extractLsb'_append_eq_of_le (by decide)
      _ = (f.rsv ++ f.unit).extractLsb' 2 3 := BitVec.extractLsb'_append_eq_of_le (by decide)
      _ = f.rsv := BitVec.extractLsb'_append_eq_left
  have hunit : f.toWord.extractLsb' 11 2 = f.unit :=
    calc f.toWord.extractLsb' 11 2
        = (f.rsv ++ f.unit ++ f.op).extractLsb' 3 2 := BitVec.extractLsb'_append_eq_of_le (by decide)
      _ = (f.rsv ++ f.unit).extractLsb' 0 2 := BitVec.extractLsb'_append_eq_of_le (by decide)
      _ = f.unit := BitVec.extractLsb'_append_eq_right
  have hop : f.toWord.extractLsb' 8 3 = f.op :=
    calc f.toWord.extractLsb' 8 3
        = (f.rsv ++ f.unit ++ f.op).extractLsb' 0 3 := BitVec.extractLsb'_append_eq_of_le (by decide)
      _ = f.op := BitVec.extractLsb'_append_eq_right
  have himm : f.toWord.extractLsb' 0 8 = f.imm8 := BitVec.extractLsb'_append_eq_right
  rw [CommandFields.ofWord, hrsv, hunit, hop, himm]

theorem ofWord_eq_iff {w : CmdWord} {f : CommandFields} : CommandFields.ofWord w = f ↔ f.toWord = w :=
  ⟨fun h => h ▸ toWord_ofWord w, fun h => h ▸ ofWord_toWord f⟩

theorem ofWord_rsv_toNat (w : CmdWord) : (CommandFields.ofWord w).rsv.toNat = w.toNat / 2 ^ 13 := by
  simp only [CommandFields.ofWord, BitVec.extractLsb'_toNat, Nat.shiftRight_eq_div_pow]
  omega

theorem ofWord_unit_toNat (w : CmdWord) : (CommandFields.ofWord w).unit.toNat = w.toNat / 2 ^ 11 % 4 := by
  simp [CommandFields.ofWord, Nat.shiftRight_eq_div_pow]

theorem ofWord_op_toNat (w : CmdWord) : (CommandFields.ofWord w).op.toNat = w.toNat / 2 ^ 8 % 8 := by
  simp [CommandFields.ofWord, Nat.shiftRight_eq_div_pow]

theorem ofWord_imm8_toNat (w : CmdWord) : (CommandFields.ofWord w).imm8.toNat = w.toNat % 2 ^ 8 := by
  simp [CommandFields.ofWord]

/-! ### The codes of engines and operations -/

theorem engineOf_eq_some_iff {u : BitVec 2} {e : Engine} : engineOf u = some e ↔ u = e.code := by
  cases e <;> revert u <;> decide

theorem engineOf_eq_none_iff {u : BitVec 2} : engineOf u = none ↔ u.toNat = 3 := by
  revert u
  decide

theorem operationOf_eq_some_iff {c : BitVec 3} {o : Operation} : operationOf c = some o ↔ c = o.code := by
  cases o <;> revert c <;> decide

theorem operationOf_eq_none_iff {c : BitVec 3} : operationOf c = none ↔ c.toNat = 0 ∨ c.toNat = 6 ∨ c.toNat = 7 := by
  revert c
  decide

theorem code_toNat_eq_three_iff {o : Operation} : o.code.toNat = 3 ↔ o = .seedByte := by cases o <;> decide

/-! ### The parts of a command

`o = .seedByte ∨ b = 0x00#8` says that the byte is one the operation's format allows (30_encoding.md R56). -/

theorem instrOf_imm8 {e : Engine} {o : Operation} {b : Byte} (h : o = .seedByte ∨ b = 0x00#8) :
    (instrOf e o b).imm8 = b := by
  rcases h with rfl | rfl
  · cases e <;> rfl
  · cases e <;> cases o <;> rfl

theorem instrOf_parts (i : Instr) : instrOf i.engine i.operation i.imm8 = i := by cases i <;> rfl

theorem imm8_allowed (i : Instr) : i.operation = .seedByte ∨ i.imm8 = 0x00#8 := by
  cases i
  case pcgSeedByte | x256SeedByte | x128SeedByte => exact .inl rfl
  all_goals exact .inr rfl

theorem fields_instrOf {e : Engine} {o : Operation} {b : Byte} (h : o = .seedByte ∨ b = 0x00#8) :
    (instrOf e o b).fields = ⟨0b000#3, e.code, o.code, b⟩ := by
  simp only [Instr.fields, instrOf_engine, instrOf_operation, instrOf_imm8 h]

/-! ### The five steps of the decoding rule -/

theorem decodeFields_of_rsv {f : CommandFields} (hr : f.rsv ≠ 0b000#3) : decodeFields f = .illegal .reservedField := by
  simp [decodeFields, hr]

theorem decodeFields_of_unit {f : CommandFields} (hr : f.rsv = 0b000#3) (hu : engineOf f.unit = none) :
    decodeFields f = .illegal .reservedUnit := by
  simp [decodeFields, hr, hu]

theorem decodeFields_of_op {f : CommandFields} {e : Engine} (hr : f.rsv = 0b000#3) (hu : engineOf f.unit = some e)
    (ho : operationOf f.op = none) : decodeFields f = .illegal .reservedOperation := by
  simp [decodeFields, hr, hu, ho]

theorem decodeFields_of_imm8 {f : CommandFields} {e : Engine} {o : Operation} (hr : f.rsv = 0b000#3)
    (hu : engineOf f.unit = some e) (ho : operationOf f.op = some o) (hb : ¬(o = .seedByte ∨ f.imm8 = 0x00#8)) :
    decodeFields f = .illegal .operandNotZero := by
  simp [decodeFields, hr, hu, ho, not_or.1 hb]

theorem decodeFields_of_row {f : CommandFields} {e : Engine} {o : Operation} (hr : f.rsv = 0b000#3)
    (hu : engineOf f.unit = some e) (ho : operationOf f.op = some o) (hb : o = .seedByte ∨ f.imm8 = 0x00#8) :
    decodeFields f = .command (instrOf e o f.imm8) := by
  simp [decodeFields, hr, hu, ho, mt not_or.2 (not_not_intro hb)]

theorem decodeFields_fields (i : Instr) : decodeFields i.fields = .command i := by
  have hrow := decodeFields_of_row (f := i.fields) rfl (engineOf_eq_some_iff.2 rfl) (operationOf_eq_some_iff.2 rfl)
    (imm8_allowed i)
  exact hrow.trans (congrArg Decoded.command (instrOf_parts i))

theorem fields_of_decodeFields {f : CommandFields} {i : Instr} (h : decodeFields f = .command i) : i.fields = f := by
  by_cases hr : f.rsv = 0b000#3
  case neg => rw [decodeFields_of_rsv hr] at h; cases h
  cases hu : engineOf f.unit with
  | none => rw [decodeFields_of_unit hr hu] at h; cases h
  | some e =>
    cases ho : operationOf f.op with
    | none => rw [decodeFields_of_op hr hu ho] at h; cases h
    | some o =>
      by_cases hb : o = .seedByte ∨ f.imm8 = 0x00#8
      case neg => rw [decodeFields_of_imm8 hr hu ho hb] at h; cases h
      rw [decodeFields_of_row hr hu ho hb] at h
      cases h
      rw [fields_instrOf hb, ← engineOf_eq_some_iff.1 hu, ← operationOf_eq_some_iff.1 ho, ← hr]

/-! ### Decoding and encoding -/

/-- The rule of the decoder: no command has two words, and no word is two commands. -/
theorem decode_eq_command_iff {w : CmdWord} {i : Instr} : decode w = .command i ↔ encode i = w := by
  unfold decode encode
  rw [← ofWord_eq_iff]
  exact ⟨fun h => (fields_of_decodeFields h).symm, fun h => h ▸ decodeFields_fields i⟩

theorem decode_encode (i : Instr) : decode (encode i) = .command i := decode_eq_command_iff.2 rfl

theorem encode_injective : Function.Injective encode := fun _ _ h =>
  Decoded.command.inj ((decode_encode _).symm.trans (decode_eq_command_iff.2 h.symm))

/-- Settles O2: a command's word has the command's fields, and they decode to it. -/
theorem decodeOfEncode : Obligations.DecodeOfEncode := by
  unfold Obligations.DecodeOfEncode
  exact decode_encode

/-- Settles O3: fields that decode to a command are that command's fields. -/
theorem encodeOfDecode : Obligations.EncodeOfDecode := by
  unfold Obligations.EncodeOfDecode
  exact fun _ _ => decode_eq_command_iff.1

/-- Settles O1: the commands by their words, the illegal words by running the decoder. -/
theorem specWordsDecode : Obligations.SpecWordsDecode := by
  unfold Obligations.SpecWordsDecode
  exact ⟨decode_encode .pcgEntropy, decode_encode (.pcgSeedByte 0x00#8), decode_encode (.pcgSeedByte 0xff#8),
    decode_encode (.x256SeedByte 0x61#8), decode_encode .x256Next, decode_encode (.x128SeedByte 0x61#8),
    decode_encode .x128Next, by decide, by decide, by decide, by decide⟩

/-- Settles O5, by the branches of the decoding rule in its order. -/
theorem decodeByFields : Obligations.DecodeByFields := by
  unfold Obligations.DecodeByFields
  intro w rsv unit op imm
  have hrsv : (CommandFields.ofWord w).rsv = 0b000#3 ↔ rsv = 0 := by rw [← BitVec.toNat_inj, ofWord_rsv_toNat]; rfl
  have hunit : engineOf (CommandFields.ofWord w).unit = none ↔ unit = 3 := by
    rw [engineOf_eq_none_iff, ofWord_unit_toNat]
  have hop : operationOf (CommandFields.ofWord w).op = none ↔ op = 0 ∨ op = 6 ∨ op = 7 := by
    rw [operationOf_eq_none_iff, ofWord_op_toNat]
  have himm : (CommandFields.ofWord w).imm8 = 0x00#8 ↔ imm = 0 := by rw [← BitVec.toNat_inj, ofWord_imm8_toNat]; rfl
  by_cases hr : rsv = 0
  case neg => rw [if_pos hr]; exact decodeFields_of_rsv (mt hrsv.1 hr)
  rw [if_neg (not_not_intro hr)]
  cases hu : engineOf (CommandFields.ofWord w).unit with
  | none => rw [if_pos (hunit.1 hu)]; exact decodeFields_of_unit (hrsv.2 hr) hu
  | some e =>
    rw [if_neg (mt hunit.2 (hu ▸ Option.some_ne_none e))]
    cases ho : operationOf (CommandFields.ofWord w).op with
    | none => rw [if_pos (hop.1 ho)]; exact decodeFields_of_op (hrsv.2 hr) hu ho
    | some o =>
      rw [if_neg (mt hop.2 (ho ▸ Option.some_ne_none o))]
      have hcode : o.code.toNat = op := by rw [← operationOf_eq_some_iff.1 ho, ofWord_op_toNat]
      have hbyte : (op ≠ 3 ∧ imm ≠ 0) ↔ ¬(o = .seedByte ∨ (CommandFields.ofWord w).imm8 = 0x00#8) := by
        rw [not_or, himm, ← code_toNat_eq_three_iff, hcode]
      by_cases hb : o = .seedByte ∨ (CommandFields.ofWord w).imm8 = 0x00#8
      case neg => rw [if_pos (hbyte.2 hb)]; exact decodeFields_of_imm8 (hrsv.2 hr) hu ho hb
      rw [if_neg (mt hbyte.1 (not_not_intro hb))]
      refine ⟨_, decodeFields_of_row (hrsv.2 hr) hu ho hb, ?_, ?_, ?_⟩
      · rw [instrOf_engine, ← engineOf_eq_some_iff.1 hu, ofWord_unit_toNat]
      · rw [instrOf_operation, hcode]
      · rw [instrOf_imm8 hb, ofWord_imm8_toNat]

/-! ### The rows of the table -/

/-- A row of format N is selected by its one word. -/
theorem decode_eq_command_iff_match {w : CmdWord} {i : Instr} : decode w = .command i ↔ w &&& 0xFFFF#16 = encode i := by
  have hmask : w &&& 0xFFFF#16 = w := BitVec.and_allOnes
  rw [decode_eq_command_iff, hmask, eq_comm]

/-- A row of format B is selected by the high byte of its words, and the low byte is the operand. -/
theorem append_eq_iff_match {w : CmdWord} {hi b : Byte} :
    hi ++ b = w ↔ w &&& 0xFF00#16 = hi ++ 0x00#8 ∧ b = w.extractLsb' 0 8 := by
  have hw : w.extractLsb' 8 8 ++ w.extractLsb' 0 8 = w := BitVec.extractLsb'_append_extractLsb' (w := 8) (len := 8)
  have hmask : w &&& 0xFF00#16 = w.extractLsb' 8 8 ++ 0x00#8 :=
    calc w &&& 0xFF00#16
        = (w.extractLsb' 8 8 ++ w.extractLsb' 0 8) &&& (0xFF#8 ++ 0x00#8) := by rw [hw]; rfl
      _ = (w.extractLsb' 8 8 &&& 0xFF#8) ++ (w.extractLsb' 0 8 &&& 0x00#8) := BitVec.and_append
      _ = w.extractLsb' 8 8 ++ 0x00#8 := by rw [BitVec.and_zero]; exact congrArg (· ++ 0x00#8) BitVec.and_allOnes
  rw [hmask, BitVec.append_left_inj]
  constructor
  · rintro rfl
    exact ⟨BitVec.extractLsb'_append_eq_left, BitVec.extractLsb'_append_eq_right.symm⟩
  · rintro ⟨hhi, rfl⟩
    rw [← hhi, hw]

theorem encode_seedByte (e : Engine) (b : Byte) :
    encode (instrOf e .seedByte b) = (0b000#3 ++ e.code ++ 0b011#3) ++ b := by
  rw [encode, fields_instrOf (.inl rfl)]; rfl

theorem decode_eq_seedByte_iff_match (w : CmdWord) (e : Engine) (b : Byte) :
    decode w = .command (instrOf e .seedByte b) ↔
      w &&& 0xFF00#16 = encode (instrOf e .seedByte 0x00#8) ∧ b = w.extractLsb' 0 8 := by
  rw [decode_eq_command_iff, encode_seedByte, encode_seedByte]
  exact append_eq_iff_match

/-! ### The 780 command words -/

/-- The operands of format B. -/
def allBytes : List Byte := (List.finRange 256).map BitVec.ofFin

theorem mem_allBytes (b : Byte) : b ∈ allBytes := List.mem_map.2 ⟨b.toFin, List.mem_finRange _, rfl⟩

theorem nodup_allBytes : allBytes.Nodup := (List.nodup_finRange 256).map fun _ _ h => BitVec.ofFin.inj h

theorem length_allBytes : allBytes.length = 256 := by rw [allBytes, List.length_map, List.length_finRange]

/-- The bytes a word of an operation may hold: every byte in format B, `0x00` alone in format N (30_encoding.md R56). -/
def operandsOf (o : Operation) : List Byte := if o = .seedByte then allBytes else [0x00#8]

theorem mem_operandsOf {o : Operation} {b : Byte} : b ∈ operandsOf o ↔ o = .seedByte ∨ b = 0x00#8 := by
  unfold operandsOf
  split <;> simp [*, mem_allBytes]

theorem nodup_operandsOf (o : Operation) : (operandsOf o).Nodup := by
  unfold operandsOf
  split
  · exact nodup_allBytes
  · exact List.nodup_singleton _

/-- The rows of 30_encoding.md R61, by engine and operation. -/
def tableRows : List (Engine × Operation) :=
  [.pcg, .x256, .x128] ×ˢ [.entropy, .seedStart, .seedByte, .seedEnd, .next]

theorem mem_tableRows (e : Engine) (o : Operation) : (e, o) ∈ tableRows := by cases e <;> cases o <;> decide

/-- Every row of the table with every operand it takes. -/
def rowOperands : List (Σ _ : Engine × Operation, Byte) := tableRows.sigma fun row => operandsOf row.2

theorem mem_rowOperands {e : Engine} {o : Operation} {b : Byte} :
    ⟨(e, o), b⟩ ∈ rowOperands ↔ o = .seedByte ∨ b = 0x00#8 := by
  rw [rowOperands, List.mem_sigma, mem_operandsOf]
  exact and_iff_right (mem_tableRows e o)

theorem nodup_rowOperands : rowOperands.Nodup := List.Nodup.sigma (by decide) fun row => nodup_operandsOf row.2

theorem length_rowOperands : rowOperands.length = 780 := by
  simp [rowOperands, tableRows, operandsOf, length_allBytes, List.product_cons]

/-- The words of every row with every operand: `12 + 3 * 256` of them (30_encoding.md R61). -/
def commandWords : List CmdWord := rowOperands.map fun row => encode (instrOf row.1.1 row.1.2 row.2)

theorem nodup_commandWords : commandWords.Nodup := by
  refine nodup_rowOperands.map_on ?_
  rintro ⟨⟨e, o⟩, b⟩ hb ⟨⟨e', o'⟩, b'⟩ hb' h
  have hinstr : instrOf e o b = instrOf e' o' b' := encode_injective h
  have he := congrArg Instr.engine hinstr
  have ho := congrArg Instr.operation hinstr
  have himm := congrArg Instr.imm8 hinstr
  rw [instrOf_engine, instrOf_engine] at he
  rw [instrOf_operation, instrOf_operation] at ho
  rw [instrOf_imm8 (mem_rowOperands.1 hb), instrOf_imm8 (mem_rowOperands.1 hb')] at himm
  rw [he, ho, himm]

theorem mem_commandWords {w : CmdWord} : w ∈ commandWords ↔ ∃ i, decode w = .command i := by
  rw [commandWords, List.mem_map]
  constructor
  · rintro ⟨row, -, rfl⟩
    exact ⟨_, decode_encode _⟩
  · rintro ⟨i, hi⟩
    refine ⟨⟨(i.engine, i.operation), i.imm8⟩, mem_rowOperands.2 (imm8_allowed i), ?_⟩
    rw [instrOf_parts, decode_eq_command_iff.1 hi]

/-- Settles O4: a row's words are those its command encodes to, and `commandWords` lists them all. -/
theorem commandTableRows : Obligations.CommandTableRows := by
  unfold Obligations.CommandTableRows
  refine ⟨fun w => ?_, commandWords, nodup_commandWords, (List.length_map _).trans length_rowOperands,
    fun w => mem_commandWords⟩
  have hword (i : Instr) := decode_eq_command_iff_match (w := w) (i := i)
  have hbyte (e : Engine) := decode_eq_seedByte_iff_match w e
  exact ⟨hword .pcgEntropy, hword .pcgSeedStart, hbyte .pcg, hword .pcgSeedEnd, hword .pcgNext,
    hword .x256Entropy, hword .x256SeedStart, hbyte .x256, hword .x256SeedEnd, hword .x256Next,
    hword .x128Entropy, hword .x128SeedStart, hbyte .x128, hword .x128SeedEnd, hword .x128Next⟩

end Sys2Proof.Proofs.Encoding
end

section
/-! PROOFS. O32, O7, O11: the one response every command gives (30_encoding.md R62), the answer to an illegal word (R60) and the
entropy port (R64). -/

namespace Sys2Proof.Proofs.Responses

open Sys2Proof.Machine Sys2Proof.Proofs.Commands Sys2Proof.Proofs.Conversions Sys2Proof.Proofs.Invariant
open Sys2Proof.Proofs.Encoding Sys2Proof.Proofs.Interleaving

/-! ### The values of responses -/

theorem f64Value_f64Frac {N P : Nat} (hP : P ≤ 52) (hN : N < 2 ^ P) : f64Value (f64Frac N P) = some ((N : ℚ) / 2 ^ P) :=
  f64Value_of_f64Bits (f64Bits_fraction hP hN)

theorem f64Frac_value_range {N P : Nat} (hP : P ≤ 52) (hN : N < 2 ^ P) :
    ∃ v : ℚ, f64Value (f64Frac N P) = some v ∧ 0 ≤ v ∧ v < 1 := by
  refine ⟨_, f64Value_f64Frac hP hN, by positivity, ?_⟩
  rw [div_lt_one (by positivity)]
  exact_mod_cast hN

theorem wellFormed_value_range {r : Response} (h : r.wellFormed) : ∃ v : ℚ, f64Value r.f64 = some v ∧ 0 ≤ v ∧ v < 1 := by
  obtain ⟨-, ⟨hN, hr⟩ | ⟨hN, hr⟩⟩ := h
  · exact hr ▸ f64Frac_value_range (by decide) hN
  · exact hr ▸ f64Frac_value_range (by decide) hN

theorem pcgResponse_payload (old : Word64) :
    (pcgResponse old).num = (pcgOut old).setWidth 64 ∧
      f64Value (pcgResponse old).f64 = some (((pcgOut old).toNat : ℚ) / 2 ^ 32) := by
  rw [pcgResponse, nextResponse, word32_zext_toNat]
  exact ⟨rfl, f64Value_f64Frac (by decide) (pcgOut old).isLt⟩

theorem x256Response_payload (q : Quad 64) :
    (x256Response q).num = (q.s0 + q.s3) >>> 12 ∧
      f64Value (x256Response q).f64 = some ((((q.s0 + q.s3) >>> 12).toNat : ℚ) / 2 ^ 52) := by
  have hm : x256Mantissa q = (q.s0 + q.s3) >>> 12 := by rw [x256Mantissa]
  rw [x256Response, nextResponse, ← hm]
  exact ⟨rfl, f64Value_f64Frac (by decide) (x256Mantissa_lt q)⟩

theorem x128Response_payload (q : Quad 32) :
    (x128Response q).num = (x128Out q.s1).setWidth 64 ∧
      f64Value (x128Response q).f64 = some (((x128Out q.s1).toNat : ℚ) / 2 ^ 32) := by
  rw [x128Response, nextResponse, word32_zext_toNat]
  exact ⟨rfl, f64Value_f64Frac (by decide) (x128Out q.s1).isLt⟩

theorem output_of_ne_next {e : Engine} {o : Operation} (h : o ≠ .next) (s : State) : output e o s = okResponse := if_neg h

/-! ### The one response -/

/-- A command that does not wait answers with the response of its operation, or with a fault. -/
theorem exec_response {i : Instr} {s t : State} (ht : exec i s = .next t) (hfree : t.entropyPending = false) :
    ∃ r, t.responses = r :: s.responses ∧ (r = output i.engine i.operation s ∨ ∃ c, c ≠ .ok ∧ r = bareResponse c) := by
  by_cases hi : i.operation = .entropy
  · rw [exec_of_entropy hi] at ht
    obtain ⟨d, -, rfl⟩ | ⟨-, rfl⟩ | ⟨-, rfl⟩ := constructFromEntropy_next ht
    · exact ⟨okResponse, by simp, .inl (by rw [hi, output_of_ne_next (by decide)])⟩
    · exact ⟨_, raise_responses _ _, .inr ⟨.entropyFail, by decide, rfl⟩⟩
    · cases hfree
  · rw [exec_of_not_entropy hi] at ht
    obtain ⟨-, rfl⟩ | ⟨-, rfl⟩ := inPhase_next ht
    · exact ⟨_, by simp, .inl rfl⟩
    · exact ⟨_, raise_responses _ _, .inr ⟨.badPhase, by decide, rfl⟩⟩

theorem runWord_response {w : CmdWord} {s t : State} (ht : runWord w s = .next t) (hfree : t.entropyPending = false) :
    ∃ r, t.responses = r :: s.responses ∧
      ((∃ i, decode w = .command i ∧ r = output i.engine i.operation s) ∨ ∃ c, c ≠ .ok ∧ r = bareResponse c) := by
  obtain ⟨i, hd, hi⟩ | rfl := runWord_next ht
  · obtain ⟨r, hr, rfl | hfault⟩ := exec_response hi hfree
    · exact ⟨_, hr, .inl ⟨i, hd, rfl⟩⟩
    · exact ⟨r, hr, .inr hfault⟩
  · exact ⟨_, raise_responses _ _, .inr ⟨.illegalCmd, by decide, rfl⟩⟩

/-- Settles O32: the response is that of the operation, whose payload is known, or a fault, whose payload is zero. -/
theorem oneResponse : Obligations.OneResponse := by
  unfold Obligations.OneResponse
  intro w s t _ ht hfree
  obtain ⟨r, hr, ⟨i, hd, rfl⟩ | ⟨c, hc, rfl⟩⟩ := runWord_response ht hfree
  · have hwf := output_wellFormed i.engine i.operation s
    have hinstr {j : Instr} (hj : decode w = .command j) : i = j := Decoded.command.inj (hd.symm.trans hj)
    refine ⟨_, hr, hwf.1, fun j hj hnext => ?_, fun hj _ => ?_, fun hj _ => ?_, fun hj _ => ?_, wellFormed_value_range hwf⟩
    all_goals obtain rfl := hinstr hj
    · rw [output_of_ne_next hnext]
      exact ⟨rfl, rfl⟩
    · exact pcgResponse_payload s.pcg.s
    · exact x256Response_payload s.x256.st
    · exact x128Response_payload s.x128.st
  · refine ⟨_, hr, fun _ => ⟨rfl, rfl⟩, fun _ _ _ => ⟨rfl, rfl⟩, ?_, ?_, ?_, wellFormed_value_range (bareResponse_wellFormed c)⟩
    all_goals exact fun _ hok => absurd hok hc

/-! ### Illegal words -/

theorem step_of_illegal {s : State} {w : CmdWord} {rest : List Input} {why : IllegalWord}
    (hin : s.inputs = .command w :: rest) (hfree : s.entropyPending = false) (hd : decode w = .illegal why) :
    step s = .next (raise .illegalCmd (s.setInputs rest)) := by
  rw [step_of_word hin, acceptCommand_of_free hfree, runWord_of_illegal hd]

/-- Settles O7: the four conditions are those of the decoding rule's branches. -/
theorem illegalWordFaults : Obligations.IllegalWordFaults := by
  unfold Obligations.IllegalWordFaults
  intro w illegal
  have hrule := decodeByFields
  unfold Obligations.DecodeByFields at hrule
  have hw := hrule w
  dsimp only at hw
  have hcases : (illegal ∧ ∃ why, decode w = .illegal why) ∨ (¬illegal ∧ ∃ i, decode w = .command i) := by
    split_ifs at hw with hr hu ho hb
    · exact .inl ⟨.inl hr, _, hw⟩
    · exact .inl ⟨.inr (.inl hu), _, hw⟩
    · exact .inl ⟨.inr (.inr (.inl ho)), _, hw⟩
    · exact .inl ⟨.inr (.inr (.inr hb)), _, hw⟩
    · obtain ⟨i, hd, -⟩ := hw
      exact .inr ⟨not_or.2 ⟨hr, not_or.2 ⟨hu, not_or.2 ⟨ho, hb⟩⟩⟩, i, hd⟩
  obtain ⟨hill, why, hd⟩ | ⟨hlegal, hi⟩ := hcases
  · exact ⟨fun _ s rest hin hfree => step_of_illegal hin hfree hd, fun h => absurd hill h⟩
  · exact ⟨fun h => absurd h hlegal, fun _ => hi⟩

/-! ### The entropy port -/

@[simp] theorem load_entropyReplies (e : Engine) (d : List Byte) (s : State) :
    (load e d s).entropyReplies = s.entropyReplies := by cases e <;> rfl

@[simp] theorem load_entropyRequests (e : Engine) (d : List Byte) (s : State) :
    (load e d s).entropyRequests = s.entropyRequests := by cases e <;> rfl

theorem exec_entropy_requests {i : Instr} {s t : State} (hi : i.operation = .entropy) (ht : exec i s = .next t) :
    t.entropyRequests = s.entropyRequests + 1 ∧ t.entropyReplies = s.entropyReplies.tail := by
  rw [exec_of_entropy hi] at ht
  obtain ⟨d, -, rfl⟩ | ⟨-, rfl⟩ | ⟨-, rfl⟩ := constructFromEntropy_next ht <;> simp

theorem exec_not_entropy_requests {i : Instr} {s t : State} (hi : i.operation ≠ .entropy) (ht : exec i s = .next t) :
    t.entropyRequests = s.entropyRequests ∧ t.entropyReplies = s.entropyReplies := by
  rw [exec_of_not_entropy hi] at ht
  obtain ⟨-, rfl⟩ | ⟨-, rfl⟩ := inPhase_next ht <;> simp

/-- Settles O11: a reply by its kind, its length by `ofLength`, and the requests by the two shapes of a command. -/
theorem entropyPort : Obligations.EntropyPort := by
  unfold Obligations.EntropyPort
  refine ⟨fun n s r rest hs => ?_, fun n s e => entropyReply_length,
    fun i s t ht => ⟨fun hi => exec_entropy_requests hi ht, fun hi => exec_not_entropy_requests hi ht⟩⟩
  rw [entropyReply_of_cons hs]
  refine ⟨?_, ?_, ?_⟩
  · rintro rfl
    exact ofLength_fail n
  · rintro e rfl he
    exact ofLength_bytes_of_eq he
  · rintro e rfl he
    exact ofLength_bytes_of_ne he

end Sys2Proof.Proofs.Responses
end

section
/-! PROOFS. O57: a printed command assembles to itself (30_encoding.md R67). The assembler sees of a line only the text left of `;`
without white space at its ends; where that text is a printed command, it is cut into the two names and the operand again. -/

namespace Sys2Proof.Proofs.Assembler

open Sys2Proof.Machine Sys2Proof.Proofs.Encoding

/-! ### What a command is printed in -/

/-- A text that is not empty and holds neither a comment's beginning nor white space. -/
def solid (t : List Char) : Bool := t != [] && t.all fun c => c != ';' && !isBlank c

/-- `UNIT.OP`. -/
def commandName (i : Instr) : List Char := engineName i.engine ++ '.' :: operationName i.operation

/-- The operand with the blank before it; empty in format N. -/
def operandText (i : Instr) : List Char := if i.operation = .seedByte then ' ' :: printByte i.imm8 else []

theorem printInstr_eq (i : Instr) : printInstr i = commandName i ++ operandText i := rfl

theorem solid_iff {t : List Char} : solid t = true ↔ t ≠ [] ∧ ∀ c ∈ t, c ≠ ';' ∧ isBlank c = false := by
  simp [solid]

theorem solid_commandName (i : Instr) : solid (commandName i) = true := by
  unfold commandName
  cases i.engine <;> cases i.operation <;> rfl

theorem hexDigit_value_solid : ∀ n < 16, hexValue (hexDigits.getD n '0') = some n ∧
    hexDigits.getD n '0' ≠ ';' ∧ isBlank (hexDigits.getD n '0') = false := by decide

theorem solid_printByte (b : Byte) : solid (printByte b) = true := by
  obtain ⟨-, hhi⟩ := hexDigit_value_solid (b.toNat / 16) (by omega)
  obtain ⟨-, hlo⟩ := hexDigit_value_solid (b.toNat % 16) (by omega)
  refine solid_iff.2 ⟨List.cons_ne_nil _ _, fun c hc => ?_⟩
  obtain rfl | rfl | rfl | rfl := by simpa only [printByte, List.mem_cons, List.not_mem_nil, or_false] using hc
  · decide
  · decide
  · exact hhi
  · exact hlo

theorem parseByte_printByte (b : Byte) : parseByte (printByte b) = some b := by
  obtain ⟨hhi, -⟩ := hexDigit_value_solid (b.toNat / 16) (by omega)
  obtain ⟨hlo, -⟩ := hexDigit_value_solid (b.toNat % 16) (by omega)
  simp only [printByte, parseByte, hhi, hlo, Nat.div_add_mod, BitVec.ofNat_toNat, BitVec.setWidth_eq]

theorem operandText_of_byte {i : Instr} (h : i.operation = .seedByte) : operandText i = ' ' :: printByte i.imm8 := if_pos h

theorem operandText_of_none {i : Instr} (h : i.operation ≠ .seedByte) : operandText i = [] := if_neg h

theorem ne_semicolon_of_mem_printInstr {i : Instr} {c : Char} (h : c ∈ printInstr i) : c ≠ ';' := by
  rw [printInstr_eq, List.mem_append] at h
  rcases h with h | h
  · exact ((solid_iff.1 (solid_commandName i)).2 c h).1
  · by_cases hi : i.operation = .seedByte
    · rw [operandText_of_byte hi, List.mem_cons] at h
      rcases h with rfl | h
      · decide
      · exact ((solid_iff.1 (solid_printByte _)).2 c h).1
    · rw [operandText_of_none hi] at h
      cases h

/-! ### White space at the ends of a text -/

theorem dropWhile_blank_append {a : List Char} (ha : solid a = true) (t : List Char) :
    (a ++ t).dropWhile isBlank = a ++ t := by
  obtain ⟨hne, hall⟩ := solid_iff.1 ha
  obtain ⟨c, u, rfl⟩ := List.exists_cons_of_ne_nil hne
  exact List.dropWhile_cons_of_neg (by simp [(hall c List.mem_cons_self).2])

theorem solid_reverse {t : List Char} (h : solid t = true) : solid t.reverse = true := by
  simpa [solid_iff] using h

theorem trim_eq_self {a b t u v : List Char} (ha : solid a = true) (hb : solid b = true) (hstart : t = a ++ u)
    (hend : t = v ++ b) : trim t = t := by
  have hfront : t.dropWhile isBlank = t := hstart ▸ dropWhile_blank_append ha u
  have hback : t.reverse.dropWhile isBlank = t.reverse := by
    rw [hend, List.reverse_append]
    exact dropWhile_blank_append (solid_reverse hb) v.reverse
  rw [trim, hfront, hback, List.reverse_reverse]

theorem trim_of_solid {t : List Char} (h : solid t = true) : trim t = t :=
  trim_eq_self h h (List.append_nil t).symm (List.nil_append t).symm

theorem trim_blank_cons (t : List Char) : trim (' ' :: t) = trim t := rfl

theorem trim_append_blank (t : List Char) : trim (t ++ [' ']) = trim t := by
  unfold trim
  rw [List.dropWhile_append]
  split
  next hnil => rw [List.isEmpty_iff.1 hnil]; rfl
  next => rw [List.reverse_append]; rfl

theorem trim_printInstr (i : Instr) : trim (printInstr i) = printInstr i := by
  by_cases hi : i.operation = .seedByte
  · have htext : printInstr i = commandName i ++ [' '] ++ printByte i.imm8 := by
      rw [printInstr_eq, operandText_of_byte hi, List.append_assoc]; rfl
    exact trim_eq_self (solid_commandName i) (solid_printByte i.imm8) (printInstr_eq i) htext
  · rw [printInstr_eq, operandText_of_none hi, List.append_nil]
    exact trim_of_solid (solid_commandName i)

/-! ### Names and operands are read back -/

theorem engineNamed_engineName (e : Engine) : engineNamed (engineName e) = some e := by cases e <;> rfl

theorem operationNamed_operationName (o : Operation) : operationNamed (operationName o) = some o := by cases o <;> rfl

theorem cutAt_commandName (i : Instr) : cutAt '.' (commandName i) = [engineName i.engine, operationName i.operation] := by
  unfold commandName
  cases i.engine <;> cases i.operation <;> rfl

theorem assembleOp_seedByte (e : Engine) (b : Byte) :
    assembleOp e (operationName .seedByte) (printByte b) = some [instrOf e .seedByte b] := by
  rw [assembleOp, operationNamed_operationName, parseByte_printByte]
  rfl

theorem assembleOp_of_ne_seedByte (e : Engine) {o : Operation} (h : o ≠ .seedByte) :
    assembleOp e (operationName o) [] = some [instrOf e o 0x00#8] := by
  rw [assembleOp, operationNamed_operationName]
  cases o with
  | seedByte => exact absurd rfl h
  | entropy | seedStart | seedEnd | next => rfl

theorem assembleOp_operandText (i : Instr) :
    assembleOp i.engine (operationName i.operation) (trim (operandText i)) = some [i] := by
  by_cases hi : i.operation = .seedByte
  · rw [operandText_of_byte hi, trim_blank_cons, trim_of_solid (solid_printByte _), hi, assembleOp_seedByte, ← hi,
      instrOf_parts]
  · have himm : i.imm8 = 0x00#8 := (imm8_allowed i).resolve_left hi
    have harg : trim (operandText i) = [] := congrArg trim (operandText_of_none hi)
    rw [harg, assembleOp_of_ne_seedByte _ hi, ← himm, instrOf_parts]

/-! ### Lines -/

theorem takeWhile_commandName (i : Instr) :
    (commandName i ++ operandText i).takeWhile (fun c => !isBlank c) = commandName i := by
  have hname : ∀ c ∈ commandName i, (!isBlank c) = true := fun c hc => by
    rw [((solid_iff.1 (solid_commandName i)).2 c hc).2]; rfl
  have hoperand : (operandText i).takeWhile (fun c => !isBlank c) = [] := by unfold operandText; split <;> rfl
  rw [List.takeWhile_append_of_pos hname, hoperand, List.append_nil]

/-- A line whose text is a printed command assembles to that command. -/
theorem assembleLine_of_text {line : List Char} {i : Instr} (h : trim (line.takeWhile (· ≠ ';')) = printInstr i) :
    assembleLine line = some [i] := by
  have hne : commandName i ++ operandText i ≠ [] :=
    List.append_ne_nil_of_left_ne_nil (solid_iff.1 (solid_commandName i)).1 _
  simp only [assembleLine, h, printInstr_eq, if_neg hne, takeWhile_commandName, List.drop_left, cutAt_commandName,
    engineNamed_engineName, assembleOp_operandText]

theorem text_printInstr_append (i : Instr) (t : List Char) :
    (printInstr i ++ t).takeWhile (· ≠ ';') = printInstr i ++ t.takeWhile (· ≠ ';') :=
  List.takeWhile_append_of_pos fun _ hc => decide_eq_true (ne_semicolon_of_mem_printInstr hc)

/-- Settles O57: with or without a comment, the text of the line is the printed command. -/
theorem printedCommandAssembles : Obligations.PrintedCommandAssembles := by
  unfold Obligations.PrintedCommandAssembles
  refine fun i comment => ⟨assembleLine_of_text ?_, assembleLine_of_text ?_⟩
  · have htext := text_printInstr_append i []
    rw [List.append_nil, List.takeWhile_nil, List.append_nil] at htext
    rw [htext, trim_printInstr]
  · have hcut : ([' ', ';'] ++ comment).takeWhile (· ≠ ';') = [' '] := rfl
    rw [List.append_assoc, text_printInstr_append, hcut, trim_append_blank, trim_printInstr]

end Sys2Proof.Proofs.Assembler
end

section
/-! PROOFS. O40: the same seed gives the same outputs, whatever the block held before (40_seed_and_shared_functions.md R77,
70_reset_and_hazards.md R184). `E.SEED_START` makes two blocks agree in all that the engine's later commands can read; from there
on every accepted command keeps the agreement and answers alike. -/

namespace Sys2Proof.Proofs.Repeat

open Sys2Proof.Machine Sys2Proof.Proofs.Commands Sys2Proof.Proofs.Unread Sys2Proof.Proofs.Interleaving
open Sys2Proof.Proofs.Encoding Sys2Proof.Proofs.Port Sys2Proof.Proofs.Responses

/-! ### Two blocks of which one engine agrees -/

/-- What the statement asks of the two blocks themselves: both accept commands, under one `XSR_SEED_PADDED`. -/
structure SamePort (s t : State) : Prop where
  freeLeft : s.entropyPending = false
  freeRight : t.entropyPending = false
  padded : s.params.xsrSeedPadded = t.params.xsrSeedPadded

/-- One engine agrees in its phase and in every register a command can read in it. -/
def AgreeIn (e : Engine) (s t : State) : Prop :=
  match e with
  | .pcg => s.pcg.agree t.pcg
  | .x256 => s.x256.agree s.params.xsrSeedPadded t.x256
  | .x128 => s.x128.agree s.params.xsrSeedPadded t.x128

theorem agreeIn_setPcg {s t : State} {a b : PcgRegs} : AgreeIn .pcg (s.setPcg a) (t.setPcg b) ↔ a.agree b := Iff.rfl

theorem agreeIn_setX256 {s t : State} {a b : X256Regs} :
    AgreeIn .x256 (s.setX256 a) (t.setX256 b) ↔ a.agree s.params.xsrSeedPadded b := Iff.rfl

theorem agreeIn_setX128 {s t : State} {a b : X128Regs} :
    AgreeIn .x128 (s.setX128 a) (t.setX128 b) ↔ a.agree s.params.xsrSeedPadded b := Iff.rfl

theorem agreeIn_respond_setInputs {e : Engine} {s t : State} (r r' : Response) (l l' : List Input) :
    AgreeIn e (respond r (s.setInputs l)) (respond r' (t.setInputs l')) ↔ AgreeIn e s t := by cases e <;> rfl

theorem phaseOf_of_agreeIn {e : Engine} {s t : State} (h : AgreeIn e s t) : s.phaseOf e = t.phaseOf e := by
  cases e <;> exact h.1

/-- `E.SEED_START` writes all that the commands after it can read, so that nothing is asked of the registers before it. -/
theorem agreeIn_seedStart {s t : State} (hp : SamePort s t) (e : Engine) (b : Byte) :
    AgreeIn e (advance e .seedStart b s) (advance e .seedStart b t) := by
  have hpadded := hp.padded
  cases e with
  | pcg =>
    refine agreeIn_setPcg.2 ?_
    simp only [pcgAdvance, pcgStart_eq]
    exact pcgAgree_refl _
  | x256 =>
    refine agreeIn_setX256.2 (hpadded ▸ x256Agree_of_seeding (x256Start_ph _ _) (x256Start_ph _ _) ?_ fun h => ?_)
    · simp [x256Advance]
    · simpa [x256Advance] using countByte_congr h rfl
  | x128 =>
    refine agreeIn_setX128.2 (hpadded ▸ x128Agree_of_seeding (x128Start_ph _ _) (x128Start_ph _ _) ?_ fun h => ?_)
    · simp [x128Advance]
    · simpa [x128Advance] using countByte_congr h rfl

theorem agreeIn_advance {e : Engine} {o : Operation} {s t : State} (b : Byte) (hp : SamePort s t) (h : AgreeIn e s t)
    (hl : legalIn o (s.phaseOf e) = true) : AgreeIn e (advance e o b s) (advance e o b t) := by
  have hpadded := hp.padded
  cases e with
  | pcg => exact agreeIn_setPcg.2 (pcgAdvance_agree b h hl)
  | x256 => exact agreeIn_setX256.2 (hpadded ▸ x256Advance_agree b h hl)
  | x128 => exact agreeIn_setX128.2 (hpadded ▸ x128Advance_agree b h hl)

theorem output_of_agreeIn {e : Engine} {o : Operation} {s t : State} (h : AgreeIn e s t)
    (hl : legalIn o (s.phaseOf e) = true) : output e o s = output e o t := by
  by_cases ho : o = .next
  · subst ho
    rw [legalIn_next] at hl
    cases e with
    | pcg => obtain ⟨-, -, hready⟩ := h; exact congrArg pcgResponse (hready hl)
    | x256 => obtain ⟨-, -, hready⟩ := h; exact congrArg x256Response (hready hl)
    | x128 => obtain ⟨-, -, hready⟩ := h; exact congrArg x128Response (hready hl)
  · rw [output_of_ne_next ho, output_of_ne_next ho]

/-! ### One accepted command -/

/-- The state after a command that the phase of its engine allows, with the inputs still to come. -/
def accepted (i : Instr) (rest : List Input) (s : State) : State :=
  respond (output i.engine i.operation s) ((advance i.engine i.operation i.imm8 s).setInputs rest)

theorem advance_setInputs (e : Engine) (o : Operation) (b : Byte) (l : List Input) (s : State) :
    advance e o b (s.setInputs l) = (advance e o b s).setInputs l := by cases e <;> rfl

theorem output_setInputs (e : Engine) (o : Operation) (l : List Input) (s : State) :
    output e o (s.setInputs l) = output e o s := by cases e <;> rfl

theorem step_accepted {i : Instr} {rest : List Input} {s : State} (hin : s.inputs = .command (encode i) :: rest)
    (hfree : s.entropyPending = false) (hi : i.operation ≠ .entropy)
    (hl : legalIn i.operation (s.phaseOf i.engine) = true) : step s = .next (accepted i rest s) := by
  rw [step_of_command hin hfree (decode_encode i), exec_of_legal hi (by simpa using hl), advance_setInputs, output_setInputs,
    accepted]

theorem accepted_samePort {i : Instr} {rest rest' : List Input} {s t : State} (h : SamePort s t) :
    SamePort (accepted i rest s) (accepted i rest' t) :=
  ⟨by simpa [accepted] using h.freeLeft, by simpa [accepted] using h.freeRight, by simpa [accepted] using h.padded⟩

theorem phaseOf_accepted {i : Instr} {s : State} (rest : List Input) (hi : i.operation ≠ .entropy)
    (hl : legalIn i.operation (s.phaseOf i.engine) = true) :
    (accepted i rest s).phaseOf i.engine = phaseAfter i.operation := by
  simpa [accepted] using phaseOf_advance i.imm8 hi hl

/-! ### Runs that answer alike -/

/-- Two runs of `k` steps complete and give the same `k` responses, all `OK`. -/
def RunsAlike (k : Nat) (s t : State) : Prop :=
  ∃ s' t' given, runFor k s = .next s' ∧ runFor k t = .next t' ∧ given.length = k ∧
    (∀ r ∈ given, r.status = .ok) ∧ s'.responses = given ++ s.responses ∧ t'.responses = given ++ t.responses

theorem runsAlike_zero (s t : State) : RunsAlike 0 s t := ⟨s, t, [], rfl, rfl, rfl, by simp, rfl, rfl⟩

/-- The next command is accepted by both blocks with one response, and the runs after it answer alike. -/
theorem runsAlike_succ {k : Nat} {i : Instr} {rest rest' : List Input} {s t : State}
    (hs : step s = .next (accepted i rest s)) (ht : step t = .next (accepted i rest' t))
    (hout : output i.engine i.operation s = output i.engine i.operation t)
    (h : RunsAlike k (accepted i rest s) (accepted i rest' t)) : RunsAlike (k + 1) s t := by
  obtain ⟨s', t', given, hs', ht', hlen, hok, hsr, htr⟩ := h
  refine ⟨s', t', given ++ [output i.engine i.operation s], by rwa [runFor_succ_of_next hs],
    by rwa [runFor_succ_of_next ht], by simp [hlen], ?_, by simp [hsr, accepted], by simp [htr, accepted, hout]⟩
  intro r hr
  rcases List.mem_append.1 hr with hr | hr
  · exact hok r hr
  · rw [List.mem_singleton.1 hr]
    exact output_status _ _ _

/-! ### Commands that are accepted one after the other -/

/-- Commands of one engine, each allowed in the phase the one before it leaves (10_state.md R28). -/
def AcceptedFrom (e : Engine) : Phase → List Instr → Prop
  | _, [] => True
  | ph, i :: is =>
    i.engine = e ∧ i.operation ≠ .entropy ∧ legalIn i.operation ph = true ∧ AcceptedFrom e (phaseAfter i.operation) is

theorem acceptedFrom_cons {e : Engine} {o : Operation} {ph : Phase} {is : List Instr} (b : Byte) (ho : o ≠ .entropy)
    (hl : legalIn o ph = true) (h : AcceptedFrom e (phaseAfter o) is) : AcceptedFrom e ph (instrOf e o b :: is) := by
  unfold AcceptedFrom
  rw [instrOf_operation]
  exact ⟨instrOf_engine e o b, ho, hl, h⟩

theorem acceptedFrom_nextProgram (e : Engine) (k : Nat) : AcceptedFrom e .ready (nextProgram e k) := by
  induction k with
  | zero => trivial
  | succ k ih => exact acceptedFrom_cons _ (by decide) rfl ih

/-- What `E.SEED` sends after `E.SEED_START`, and the output steps after it. -/
theorem acceptedFrom_seedBytes (e : Engine) (m : List Byte) (k : Nat) :
    AcceptedFrom e .seeding (m.map (instrOf e .seedByte) ++ instrOf e .seedEnd 0x00#8 :: nextProgram e k) := by
  induction m with
  | nil => exact acceptedFrom_cons _ (by decide) rfl (acceptedFrom_nextProgram e k)
  | cons b m ih => exact acceptedFrom_cons b (by decide) rfl ih

/-- Blocks that agree in an engine answer alike to commands it accepts. -/
theorem runsAlike_of_acceptedFrom {e : Engine} {is : List Instr} {s t : State} {restS restT : List Input}
    (hs : s.inputs = sends is ++ restS) (ht : t.inputs = sends is ++ restT) (hp : SamePort s t) (h : AgreeIn e s t)
    (his : AcceptedFrom e (s.phaseOf e) is) : RunsAlike is.length s t := by
  induction is generalizing s t with
  | nil => exact runsAlike_zero s t
  | cons i is ih =>
    obtain ⟨rfl, hi, hl, hrest⟩ := his
    have hl' := phaseOf_of_agreeIn h ▸ hl
    refine runsAlike_succ (step_accepted hs hp.freeLeft hi hl) (step_accepted ht hp.freeRight hi hl')
      (output_of_agreeIn h hl) (ih rfl rfl (accepted_samePort hp) ?_ ?_)
    · exact (agreeIn_respond_setInputs _ _ _ _).2 (agreeIn_advance _ hp h hl)
    · rwa [phaseOf_accepted _ hi hl]

/-- `SEED_START` is accepted in every phase; the blocks then agree in its engine, whatever they held before. -/
theorem runsAlike_of_seedStart {e : Engine} {i : Instr} {is : List Instr} {s t : State} {restS restT : List Input}
    (he : i.engine = e) (hi : i.operation = .seedStart) (hs : s.inputs = sends (i :: is) ++ restS)
    (ht : t.inputs = sends (i :: is) ++ restT) (hp : SamePort s t) (his : AcceptedFrom e .seeding is) :
    RunsAlike (is.length + 1) s t := by
  subst he
  have hentropy : i.operation ≠ .entropy := by rw [hi]; decide
  have hl (u : State) : legalIn i.operation (u.phaseOf i.engine) = true := by rw [hi]; rfl
  have hnext : i.operation ≠ .next := by rw [hi]; decide
  have hagree := agreeIn_seedStart hp i.engine i.imm8
  rw [← hi] at hagree
  refine runsAlike_succ (step_accepted hs hp.freeLeft hentropy (hl s)) (step_accepted ht hp.freeRight hentropy (hl t))
    (by rw [output_of_ne_next hnext, output_of_ne_next hnext])
    (runsAlike_of_acceptedFrom rfl rfl (accepted_samePort hp) ((agreeIn_respond_setInputs _ _ _ _).2 hagree) ?_)
  rwa [phaseOf_accepted _ hentropy (hl s), hi]

/-- Settles O40: after `E.SEED_START` the blocks agree in the engine, and the commands after it are all accepted. -/
theorem seededRunsRepeat : Obligations.SeededRunsRepeat := by
  unfold Obligations.SeededRunsRepeat
  intro e m k s t restS restT hs ht hfreeS hfreeT hpadded
  have hrun := runsAlike_of_seedStart (restS := restS) (restT := restT) (instrOf_engine e .seedStart 0x00#8)
    (instrOf_operation e .seedStart 0x00#8) (by simpa [seedProgram] using hs) (by simpa [seedProgram] using ht)
    ⟨hfreeS, hfreeT, hpadded⟩ (acceptedFrom_seedBytes e m k)
  have hlen : (m.map (instrOf e .seedByte) ++ instrOf e .seedEnd 0x00#8 :: nextProgram e k).length + 1 = m.length + 2 + k := by
    simp +arith [nextProgram]
  exact hlen ▸ hrun

end Sys2Proof.Proofs.Repeat
end

section
/-! PROOFS. O59, O45, O46: the value of a binary64 pattern by its fields (40_seed_and_shared_functions.md R86), the fields and the
exact value of `F64Frac` (R87), and the range of its results (R88). -/

namespace Sys2Proof.Proofs.Results

open Sys2Proof.Machine Sys2Proof.Proofs.Responses

/-! ### The value by sign, exponent and mantissa -/

theorem f64Value_of_fields (sign : Bool) (e : BitVec 11) (f : BitVec 52) (he : e.toNat ≠ 2047) :
    f64Value (BitVec.ofBool sign ++ e ++ f) =
      some (if sign then -f64Magnitude e.toNat f.toNat else f64Magnitude e.toNat f.toNat) := by
  have hexp : (BitVec.ofBool sign ++ e ++ f).extractLsb' 52 11 = e := by
    rw [BitVec.extractLsb'_append_eq_of_le (le_refl 52)]
    exact BitVec.extractLsb'_append_eq_right
  have hman : (BitVec.ofBool sign ++ e ++ f).extractLsb' 0 52 = f := BitVec.extractLsb'_append_eq_right
  have hsign : (BitVec.ofBool sign ++ e ++ f).getLsbD 63 = sign := by
    rw [BitVec.getLsbD_append, BitVec.getLsbD_append]
    simp
  rw [f64Value_eq, hexp, hman, hsign, if_neg he]

/-- The size of a normal pattern with its exponent as the rule writes it. -/
theorem f64Magnitude_zpow {e : Nat} (he : e ≠ 0) (f : Nat) :
    f64Magnitude e f = 2 ^ ((e : ℤ) - 1023) * (1 + (f : ℚ) / 2 ^ 52) := by
  rw [f64Magnitude_normal he, zpow_sub₀ two_ne_zero, zpow_natCast]
  rfl

theorem f64Value_normal (sign : Bool) (e : BitVec 11) (f : BitVec 52) (hlo : 1 ≤ e.toNat) (hhi : e.toNat ≤ 2046) :
    f64Value (BitVec.ofBool sign ++ e ++ f) =
      some ((-1) ^ sign.toNat * 2 ^ ((e.toNat : ℤ) - 1023) * (1 + (f.toNat : ℚ) / 2 ^ 52)) := by
  rw [f64Value_of_fields sign e f (by omega), f64Magnitude_zpow (by omega)]
  cases sign with
  | false => simp
  | true => simp

theorem exponentOne_or_eq_append (f : BitVec 52) :
    0x3ff0000000000000#64 ||| f.setWidth 64 = BitVec.ofBool false ++ 1023#11 ++ f := by
  have hexp : (0x3ff0000000000000#64).toNat = (BitVec.ofBool false ++ 1023#11).toNat <<< 52 := by decide
  apply BitVec.eq_of_toNat_eq
  rw [BitVec.toNat_or, BitVec.toNat_setWidth, Nat.mod_eq_of_lt (f.isLt.trans (by decide)), hexp]
  exact (BitVec.toNat_append _ f).symm

/-- Settles O59: a normal pattern by its three fields; the patterns of the source are those of exponent field 1023. -/
theorem f64ValueFormula : Obligations.F64ValueFormula := by
  unfold Obligations.F64ValueFormula
  refine ⟨f64Value_normal, ?_, fun f => ⟨1 + (f.toNat : ℚ) / 2 ^ 52, ?_, ?_, ?_⟩⟩
  · rw [f64Value_of_toNat (n := 0) (sign := false) (by decide) rfl]
    simp [f64Magnitude_subnormal]
  · rw [exponentOne_or_eq_append, f64Value_normal false 1023#11 f (by decide) (by decide)]
    simp
  · have : (0 : ℚ) ≤ f.toNat / 2 ^ 52 := by positivity
    linarith
  · have hf : (f.toNat : ℚ) / 2 ^ 52 < 1 := by
      rw [div_lt_one (by positivity)]
      exact_mod_cast f.isLt
    linarith

/-! ### The fields of `F64Frac` -/

theorem mantissa_add_le {N k : Nat} (hk : k ≤ 52) (hlo : 2 ^ k ≤ N) (hhi : N < 2 ^ (k + 1)) :
    (N - 2 ^ k) * 2 ^ (52 - k) + 2 ^ (52 - k) ≤ 2 ^ 52 := by
  have hN : N - 2 ^ k + 1 ≤ 2 ^ k := by rw [pow_succ] at hhi; omega
  calc (N - 2 ^ k) * 2 ^ (52 - k) + 2 ^ (52 - k)
      = (N - 2 ^ k + 1) * 2 ^ (52 - k) := by ring
    _ ≤ 2 ^ k * 2 ^ (52 - k) := Nat.mul_le_mul_right _ hN
    _ = 2 ^ 52 := by rw [← pow_add]; congr 1; omega

/-- The pattern by its leading one, which has the index `k`. -/
theorem f64Frac_toNat_of_leading {N P k : Nat} (hP : P ≤ 52) (hN : N < 2 ^ P) (hlo : 2 ^ k ≤ N) (hhi : N < 2 ^ (k + 1)) :
    k < P ∧ (f64Frac N P).toNat = (1023 - P + k) * 2 ^ 52 + (N - 2 ^ k) * 2 ^ (52 - k) := by
  have h0 : N ≠ 0 := by have := Nat.two_pow_pos k; omega
  obtain rfl : N.log2 = k := (Nat.log2_eq_iff h0).2 ⟨hlo, hhi⟩
  exact ⟨(Nat.log2_lt h0).2 hN, f64Frac_toNat h0 hP hN⟩

theorem f64Frac_fields_of_leading {N P k : Nat} (hP : P ≤ 52) (hN : N < 2 ^ P) (hlo : 2 ^ k ≤ N) (hhi : N < 2 ^ (k + 1)) :
    ((f64Frac N P).extractLsb' 52 11).toNat = 1023 - P + k ∧
      ((f64Frac N P).extractLsb' 0 52).toNat = (N - 2 ^ k) * 2 ^ (52 - k) ∧
      (f64Frac N P).getLsbD 63 = false := by
  obtain ⟨hk, hp⟩ := f64Frac_toNat_of_leading hP hN hlo hhi
  have hf := mantissa_add_le (by omega) hlo hhi
  have hpos := Nat.two_pow_pos (52 - k)
  rw [BitVec.extractLsb'_toNat, BitVec.extractLsb'_toNat, BitVec.getLsbD, Nat.testBit_eq_decide_div_mod_eq,
    Nat.shiftRight_eq_div_pow, Nat.shiftRight_zero, hp]
  generalize (N - 2 ^ k) * 2 ^ (52 - k) = f at *
  generalize 2 ^ (52 - k) = d at *
  exact ⟨by omega, by omega, decide_eq_false (by omega)⟩

/-- Settles O45, from the pattern as the sum of its fields and the value as that of a rational's pattern. -/
theorem f64FracExact : Obligations.F64FracExact := by
  unfold Obligations.F64FracExact
  intro N P hP hN
  have hP52 : P ≤ 52 := by omega
  refine ⟨?_, fun k hlo hhi => f64Frac_fields_of_leading hP52 hN hlo hhi, f64Value_f64Frac hP52 hN⟩
  rintro rfl
  exact f64Frac_zero P

/-! ### The range of `F64Frac` -/

/-- The pattern lies below that of 1.0 by at least one unit of the last of `P` bits after the point. -/
theorem f64Frac_add_le {N P : Nat} (hP : P ≤ 52) (hN : N < 2 ^ P) : (f64Frac N P).toNat + 2 ^ (53 - P) ≤ 1023 * 2 ^ 52 := by
  by_cases h0 : N = 0
  · have : 2 ^ (53 - P) ≤ 2 ^ 53 := Nat.pow_le_pow_right two_pos (by omega)
    simp only [h0, f64Frac_zero, BitVec.toNat_ofNat]
    omega
  · have hhi : N < 2 ^ (N.log2 + 1) := Nat.lt_log2_self
    obtain ⟨hk, hp⟩ := f64Frac_toNat_of_leading hP hN (Nat.log2_self_le h0) hhi
    have hf := mantissa_add_le (by omega) (Nat.log2_self_le h0) hhi
    have hunit : 2 ^ (53 - P) ≤ 2 ^ (52 - N.log2) := Nat.pow_le_pow_right two_pos (by omega)
    rw [hp]
    generalize (N - 2 ^ N.log2) * 2 ^ (52 - N.log2) = f at *
    omega

/-- Settles O46: the values from the exact ones, the greatest patterns from the distance to the pattern of 1.0. -/
theorem f64FracRange : Obligations.F64FracRange := by
  unfold Obligations.F64FracRange
  refine ⟨fun N P hP hN => f64Frac_value_range (by omega) hN, fun N hN => ?_, fun N hN => ?_, f64Frac_zero 32, f64Frac_zero 52,
    by decide +kernel, by decide +kernel⟩
  · exact Nat.le_of_add_le_add_right (f64Frac_add_le (P := 32) (by decide) hN)
  · exact Nat.le_of_add_le_add_right (f64Frac_add_le (P := 52) (by decide) hN)

end Sys2Proof.Proofs.Results
end

section
/-! PROOFS. O58: the byte layout of `fromNumber` (40_seed_and_shared_functions.md R80, 20_memory.md R45). -/

namespace Sys2Proof.Proofs.SeedNumber

open Sys2Proof.Machine

theorem seedFromNumber_eq_map (p : Word64) : seedFromNumber p = (List.range 8).map fun i => p.extractLsb' (8 * i) 8 := rfl

theorem seedFromNumber_getElem? {i : Nat} (p : Word64) (hi : i < 8) :
    (seedFromNumber p)[i]? = some (p.extractLsb' (8 * i) 8) := by
  rw [seedFromNumber_eq_map, List.getElem?_map, List.getElem?_range hi, Option.map_some]

/-- The bytes of a number, each at its place, add up to the number, cut to as many bytes. -/
theorem sum_bytes_eq_mod (n k : Nat) : ∑ i ∈ Finset.range k, n / 2 ^ (8 * i) % 2 ^ 8 * 2 ^ (8 * i) = n % 2 ^ (8 * k) := by
  simp only [pow_mul]
  induction k with
  | zero => simp [Nat.mod_one]
  | succ k ih => rw [Finset.sum_range_succ, ih, Nat.mod_pow_succ (b := 2 ^ 8), Nat.mul_comm]

theorem leSum_seedFromNumber (p : Word64) : leSum (seedFromNumber p) 0 8 = p.toNat := by
  calc leSum (seedFromNumber p) 0 8
      = ∑ i ∈ Finset.range 8, p.toNat / 2 ^ (8 * i) % 2 ^ 8 * 2 ^ (8 * i) := by
        refine Finset.sum_congr rfl fun i hi => ?_
        rw [List.getD_eq_getElem?_getD, Nat.zero_add, seedFromNumber_getElem? p (Finset.mem_range.1 hi), Option.getD_some,
          BitVec.extractLsb'_toNat, Nat.shiftRight_eq_div_pow]
    _ = p.toNat := by rw [sum_bytes_eq_mod, Nat.mod_eq_of_lt p.isLt]

/-- Settles O58: byte `i` by the layout, and the number read back as the sum of its bytes. -/
theorem fromNumberLittleEndian : Obligations.FromNumberLittleEndian := by
  unfold Obligations.FromNumberLittleEndian
  refine ⟨fun p => ⟨rfl, fun i hi => seedFromNumber_getElem? p hi, ?_⟩, by decide⟩
  rw [leSum_seedFromNumber, BitVec.ofNat_toNat, BitVec.setWidth_eq]

end Sys2Proof.Proofs.SeedNumber
end

section
/-! PROOFS. O51: `Mix64` is a bijection that fixes 0 (40_seed_and_shared_functions.md R84, R89). It is made of two steps that lose
nothing: the xor of a word with a right shift of it, and the product with an odd constant. -/

namespace Sys2Proof.Proofs.Mixing

open Sys2Proof.Machine

/-- The xor of a word with a right shift of it. -/
def xorShift (k : Nat) (x : Word64) : Word64 := x ^^^ x >>> k

theorem mix64_eq_steps (x : Word64) : mix64 x = xorShift 31 (xorShift 27 (xorShift 30 x * mix1) * mix2) := by
  simp only [mix64, xorShift]

/-- Words with one image differ by a word that is its own right shift, which is 0. -/
theorem xorShift_injective {k : Nat} (hk : k ≠ 0) : Function.Injective (xorShift k) := by
  intro x y h
  have hfix : x ^^^ y = (x ^^^ y) >>> k := by
    unfold xorShift at h
    rw [← BitVec.xor_eq_zero_iff] at h ⊢
    rw [BitVec.ushiftRight_xor_distrib, ← h]
    ac_rfl
  have hzero : (x ^^^ y).toNat = 0 := by
    by_contra hpos
    have hlt := Nat.div_lt_self (Nat.pos_of_ne_zero hpos) (Nat.one_lt_two_pow hk)
    rw [← Nat.shiftRight_eq_div_pow, ← BitVec.toNat_ushiftRight, ← hfix] at hlt
    exact lt_irrefl _ hlt
  exact BitVec.xor_eq_zero_iff.1 (BitVec.eq_of_toNat_eq hzero)

theorem mul_injective_of_inverse {w : Nat} {c d : BitVec w} (h : c * d = 1#w) : Function.Injective fun x : BitVec w => x * c :=
  Function.LeftInverse.injective (g := (· * d)) fun x =>
    show x * c * d = x by rw [BitVec.mul_assoc, h, BitVec.mul_one]

theorem mix1_mul_inverse : mix1 * 0x96de1b173f119089#64 = 1#64 := by decide +kernel

theorem mix2_mul_inverse : mix2 * 0x319642b2d24d8ec3#64 = 1#64 := by decide +kernel

theorem gamma_mul_inverse : gamma * 0xf1de83e19937733d#64 = 1#64 := by decide +kernel

theorem mix64_injective : Function.Injective mix64 := by
  intro x y h
  rw [mix64_eq_steps, mix64_eq_steps] at h
  have h27 := mul_injective_of_inverse mix2_mul_inverse (xorShift_injective (by decide) h)
  have h30 := mul_injective_of_inverse mix1_mul_inverse (xorShift_injective (by decide) h27)
  exact xorShift_injective (by decide) h30

theorem mix64_zero : mix64 0#64 = 0#64 := by simp [mix64]

theorem mix64_eq_zero_iff (x : Word64) : mix64 x = 0#64 ↔ x = 0#64 := by
  rw [← mix64_injective.eq_iff (a := x), mix64_zero]

/-- The counters of an expansion's rounds are distinct, as `GAMMA` is odd. -/
theorem round_counter_injective {h : Word64} {m n : Nat} (hm : m < 2 ^ 64) (hn : n < 2 ^ 64)
    (heq : h + BitVec.ofNat 64 m * gamma = h + BitVec.ofNat 64 n * gamma) : m = n := by
  have hround : BitVec.ofNat 64 m = BitVec.ofNat 64 n :=
    mul_injective_of_inverse gamma_mul_inverse (add_left_cancel heq)
  rwa [← BitVec.toNat_inj, BitVec.toNat_ofNat, BitVec.toNat_ofNat, Nat.mod_eq_of_lt hm, Nat.mod_eq_of_lt hn] at hround

/-- Settles O51: `Mix64` is injective on a finite type, and an expansion applies it to distinct counters. -/
theorem mix64Bijective : Obligations.Mix64Bijective := by
  unfold Obligations.Mix64Bijective
  refine ⟨Finite.injective_iff_bijective.1 mix64_injective, mix64_eq_zero_iff, fun h i j hi hj hij heq => hij ?_⟩
  have := round_counter_injective (by omega) (by omega) (mix64_injective heq)
  omega

end Sys2Proof.Proofs.Mixing
end

section
/-! PROOFS. What a run of accepted commands of one engine leaves (10_state.md R28, 30_encoding.md R69): the steps write the
engine one after the other and give one response each. -/

namespace Sys2Proof.Proofs.Seeding

open Sys2Proof.Machine Sys2Proof.Proofs.Commands Sys2Proof.Proofs.Repeat Sys2Proof.Proofs.Responses

/-- What a command writes, as a function on states. -/
def write (s : State) (i : Instr) : State := advance i.engine i.operation i.imm8 s

/-- What a command that took effect leaves: its registers and its response. -/
def perform (s : State) (i : Instr) : State := respond (output i.engine i.operation s) (write s i)

theorem accepted_eq_perform (i : Instr) (rest : List Input) (s : State) : accepted i rest s = perform (s.setInputs rest) i := by
  rw [perform, output_setInputs, write, advance_setInputs, accepted]

theorem runFor_of_acceptedFrom {e : Engine} {is : List Instr} {rest : List Input} {s : State}
    (hin : s.inputs = sends is ++ rest) (hfree : s.entropyPending = false) (his : AcceptedFrom e (s.phaseOf e) is) :
    runFor is.length s = .next (is.foldl perform (s.setInputs rest)) := by
  induction is generalizing s with
  | nil =>
    obtain rfl : s.inputs = rest := hin
    rfl
  | cons i is ih =>
    obtain ⟨rfl, hi, hl, hrest⟩ := his
    have hfree' : (accepted i (sends is ++ rest) s).entropyPending = false := by simpa [accepted] using hfree
    have hset : (accepted i (sends is ++ rest) s).setInputs rest = perform (s.setInputs rest) i := accepted_eq_perform i rest s
    have hrun := ih rfl hfree' (by rwa [phaseOf_accepted _ hi hl])
    rw [hset] at hrun
    exact (runFor_succ_of_next (step_accepted hin hfree hi hl)).trans hrun

theorem write_answered (l : List Response) (s : State) (i : Instr) :
    write { s with responses := l } i = { write s i with responses := l } := by
  unfold write; cases i.engine <;> rfl

theorem foldl_perform {is : List Instr} (his : ∀ i ∈ is, i.operation ≠ .next) (s : State) :
    is.foldl perform s =
      { is.foldl write s with responses := List.replicate is.length (bareResponse .ok) ++ s.responses } := by
  induction is using List.reverseRecOn with
  | nil => rfl
  | append_singleton is i ih =>
    obtain ⟨his, hi⟩ := List.forall_mem_append.1 his
    rw [List.foldl_concat, ih his, List.foldl_concat, perform, output_of_ne_next (hi i (List.mem_singleton_self i)),
      write_answered, List.length_append, List.length_singleton, List.replicate_succ]
    rfl

theorem acceptedFrom_seedProgram (e : Engine) (ph : Phase) (m : List Byte) : AcceptedFrom e ph (seedProgram e m) :=
  acceptedFrom_cons _ (by decide) rfl (acceptedFrom_seedBytes e m 0)

theorem seedProgram_length (e : Engine) (m : List Byte) : (seedProgram e m).length = m.length + 2 := by
  simp [seedProgram]

theorem seedProgram_ne_next (e : Engine) (m : List Byte) : ∀ i ∈ seedProgram e m, i.operation ≠ .next := by
  simp only [seedProgram, List.forall_mem_cons, List.forall_mem_append, List.forall_mem_map, instrOf_operation]
  simp

/-- Seeding an engine from any state: the commands write it in order, and all respond `OK`. -/
theorem runFor_seedProgram {e : Engine} {m : List Byte} {rest : List Input} {s : State}
    (hin : s.inputs = sends (seedProgram e m) ++ rest) (hfree : s.entropyPending = false) :
    runFor (m.length + 2) s = .next { (seedProgram e m).foldl write (s.setInputs rest) with
      responses := List.replicate (m.length + 2) (bareResponse .ok) ++ s.responses } := by
  rw [← seedProgram_length e m, runFor_of_acceptedFrom hin hfree (acceptedFrom_seedProgram e _ m),
    foldl_perform (seedProgram_ne_next e m), setInputs_responses]

end Sys2Proof.Proofs.Seeding
end

section
/-! PROOFS. O36: seeding `PCG` byte by byte computes `PcgSeed` (41_pcg.md R102, R110). The registers after some bytes are a
function of the bytes: `s` has absorbed the whole chunks and `acc` holds the bytes after them. -/

namespace Sys2Proof.Proofs.PcgSeeding

open Sys2Proof.Machine Sys2Proof.Proofs.Commands Sys2Proof.Proofs.Seeding

/-! ### Little-endian words of chunks -/

theorem le64_append_zeros (e : List Byte) (k : Nat) : le64 (e ++ List.replicate k 0x00#8) = le64 e := by
  rw [le64, le64, leNat_append, leNat_zeros, Nat.mul_zero, Nat.add_zero]

theorem zext64_shiftLeft (b : Byte) (k : Nat) : zext64 b <<< k = BitVec.ofNat 64 (b.toNat <<< k) := by
  apply BitVec.eq_of_toNat_eq
  rw [BitVec.toNat_shiftLeft, BitVec.toNat_ofNat, zext64, BitVec.toNat_setWidth_of_le (by decide)]

/-- A byte after the bytes of a word is or-ed in above them, as `PCG.SEED_BYTE` does. -/
theorem le64_concat (e : List Byte) (b : Byte) : le64 (e ++ [b]) = le64 e ||| (zext64 b <<< (8 * e.length)) := by
  have hor : leNat (e ++ [b]) = leNat e ||| b.toNat <<< (8 * e.length) := by
    rw [leNat_append, Nat.shiftLeft_eq, Nat.mul_comm b.toNat, Nat.or_comm,
      ← Nat.two_pow_add_eq_or_of_lt (leNat_lt e), Nat.add_comm]
    rfl
  rw [le64, le64, hor, BitVec.ofNat_or, zext64_shiftLeft]

theorem le64_nil : le64 [] = 0#64 := by rw [le64]; rfl

/-! ### Absorbing whole chunks -/

/-- `PcgAbsorb` over the first `n` chunks of a byte sequence. -/
def absorbChunks (p : List Byte) (n : Nat) : Word64 := (List.range n).foldl (fun s j => pcgAbsorb s (pcgChunk p j)) pcgK0

theorem absorbChunks_zero (p : List Byte) : absorbChunks p 0 = pcgK0 := rfl

theorem absorbChunks_succ (p : List Byte) (n : Nat) :
    absorbChunks p (n + 1) = pcgAbsorb (absorbChunks p n) (pcgChunk p n) := by
  rw [absorbChunks, List.range_succ, List.foldl_concat, absorbChunks]

theorem pcgSeed_eq_absorbChunks (m : List Byte) : pcgSeed m = absorbChunks (zeroPad m) (paddedLength m.length / 8) := rfl

theorem pcgChunk_append {m : List Byte} {j : Nat} (t : List Byte) (h : 8 * (j + 1) ≤ m.length) :
    pcgChunk (m ++ t) j = pcgChunk m j := by
  rw [pcgChunk, pcgChunk, slice, slice, List.drop_append_of_le_length (by omega),
    List.take_append_of_le_length (by rw [List.length_drop]; omega)]

theorem absorbChunks_append {m : List Byte} {n : Nat} (t : List Byte) (h : 8 * n ≤ m.length) :
    absorbChunks (m ++ t) n = absorbChunks m n := by
  induction n with
  | zero => rw [absorbChunks_zero, absorbChunks_zero]
  | succ n ih => rw [absorbChunks_succ, absorbChunks_succ, ih (by omega), pcgChunk_append t h]

/-- The bytes after the whole chunks. -/
def openChunk (m : List Byte) : List Byte := m.drop (8 * (m.length / 8))

theorem openChunk_length (m : List Byte) : (openChunk m).length = m.length % 8 := by
  rw [openChunk, List.length_drop]; omega

theorem openChunk_of_whole {m : List Byte} (h : m.length % 8 = 0) : openChunk m = [] :=
  List.length_eq_zero_iff.1 ((openChunk_length m).trans h)

theorem openChunk_concat {m : List Byte} (b : Byte) (h : m.length % 8 ≠ 7) : openChunk (m ++ [b]) = openChunk m ++ [b] := by
  have hdiv : (m ++ [b]).length / 8 = m.length / 8 := by rw [List.length_append, List.length_singleton]; omega
  rw [openChunk, hdiv, List.drop_append_of_le_length (by omega), openChunk]

/-- Bytes that fill the open chunk: it is absorbed after the whole ones. -/
theorem absorbChunks_of_filled {m t : List Byte} (h : m.length % 8 + t.length = 8) :
    absorbChunks (m ++ t) (m.length / 8 + 1) = pcgAbsorb (absorbChunks m (m.length / 8)) (le64 (openChunk m ++ t)) := by
  have hchunk : pcgChunk (m ++ t) (m.length / 8) = le64 (openChunk m ++ t) := by
    rw [pcgChunk, slice, List.drop_append_of_le_length (by omega), ← openChunk,
      List.take_of_length_le (by rw [List.length_append, openChunk_length, h])]
  rw [absorbChunks_succ, absorbChunks_append _ (by omega), hchunk]

/-! ### The registers while seeding -/

/-- The `PCG` registers in phase `SEEDING` after the bytes of `m`. -/
def seedingRegs (m : List Byte) : PcgRegs where
  s := absorbChunks m (m.length / 8)
  acc := le64 (openChunk m)
  cnt := BitVec.ofNat 3 m.length
  ph := .seeding

theorem pcgStart_eq_seedingRegs (r : PcgRegs) : pcgStart r = seedingRegs [] := by
  rw [pcgStart_eq, seedingRegs, openChunk_of_whole rfl, le64_nil]; rfl

theorem ofNat3_eq_iff {n : Nat} {c : BitVec 3} : BitVec.ofNat 3 n = c ↔ n % 8 = c.toNat := by
  rw [← BitVec.toNat_inj, BitVec.toNat_ofNat]

theorem pcgByte_seedingRegs (m : List Byte) (b : Byte) : pcgByte b (seedingRegs m) = seedingRegs (m ++ [b]) := by
  have hacc : le64 (openChunk m) ||| (zext64 b <<< (8 * (BitVec.ofNat 3 m.length).toNat)) = le64 (openChunk m ++ [b]) := by
    rw [le64_concat, openChunk_length, BitVec.toNat_ofNat]
  have hlen : (m ++ [b]).length = m.length + 1 := List.length_append
  by_cases h : m.length % 8 = 7
  · have hdiv : (m ++ [b]).length / 8 = m.length / 8 + 1 := by omega
    have hwhole : (m ++ [b]).length % 8 = 0 := by omega
    have hcnt : BitVec.ofNat 3 (m ++ [b]).length = 0#3 := ofNat3_eq_iff.2 hwhole
    rw [pcgByte_of_full (ofNat3_eq_iff.2 h), seedingRegs, seedingRegs, hacc, hdiv,
      absorbChunks_of_filled (by rw [h]; rfl), openChunk_of_whole hwhole, le64_nil, hcnt]
  · have hdiv : (m ++ [b]).length / 8 = m.length / 8 := by omega
    rw [pcgByte_of_room (mt ofNat3_eq_iff.1 h), seedingRegs, seedingRegs, hacc, hdiv, absorbChunks_append _ (by omega),
      openChunk_concat b h, hlen, BitVec.ofNat_add]

theorem foldl_pcgByte (m : List Byte) (r : PcgRegs) : m.foldl (fun r b => pcgByte b r) (pcgStart r) = seedingRegs m := by
  induction m using List.reverseRecOn with
  | nil => exact pcgStart_eq_seedingRegs r
  | append_singleton m b ih => rw [List.foldl_concat, ih, pcgByte_seedingRegs]

/-! ### The end of the seed -/

theorem zeroPad_of_whole {m : List Byte} (h : m.length % 8 = 0) : zeroPad m = m := by
  rw [zeroPad, paddedLength_of_dvd h, Nat.sub_self, List.replicate_zero, List.append_nil]

theorem pcgSeed_of_whole {m : List Byte} (h : m.length % 8 = 0) : pcgSeed m = absorbChunks m (m.length / 8) := by
  rw [pcgSeed_eq_absorbChunks, zeroPad_of_whole h, paddedLength_of_dvd h]

theorem pcgSeed_of_partial {m : List Byte} (h : m.length % 8 ≠ 0) :
    pcgSeed m = pcgAbsorb (absorbChunks m (m.length / 8)) (le64 (openChunk m)) := by
  have hpad : paddedLength m.length = 8 * (m.length / 8 + 1) := by rw [paddedLength]; omega
  have hfill : m.length % 8 + (List.replicate (paddedLength m.length - m.length) 0x00#8).length = 8 := by
    rw [List.length_replicate]; omega
  rw [pcgSeed_eq_absorbChunks, zeroPad, hpad, Nat.mul_div_cancel_left _ (by decide), ← hpad,
    absorbChunks_of_filled hfill, le64_append_zeros]

theorem pcgEnd_seedingRegs (m : List Byte) :
    pcgEnd (seedingRegs m) = { s := pcgSeed m, acc := 0#64, cnt := 0#3, ph := .ready } := by
  by_cases h : m.length % 8 = 0
  · have hcnt : BitVec.ofNat 3 m.length = 0#3 := ofNat3_eq_iff.2 h
    rw [pcgEnd_of_whole hcnt, seedingRegs, hcnt, openChunk_of_whole h, le64_nil, pcgSeed_of_whole h]
  · rw [pcgEnd_of_partial (mt ofNat3_eq_iff.1 h), seedingRegs, pcgSeed_of_partial h]

/-! ### The whole run -/

theorem foldl_write_seedBytes (m : List Byte) (s : State) :
    (m.map (instrOf .pcg .seedByte)).foldl write s = s.setPcg (m.foldl (fun r b => pcgByte b r) s.pcg) := by
  induction m generalizing s with
  | nil => rfl
  | cons b m ih => exact ih _

theorem foldl_write_seedProgram (m : List Byte) (s : State) :
    (seedProgram .pcg m).foldl write s = s.setPcg { s := pcgSeed m, acc := 0#64, cnt := 0#3, ph := .ready } := by
  rw [← pcgEnd_seedingRegs, ← foldl_pcgByte m s.pcg, seedProgram, List.foldl_cons, List.foldl_concat, foldl_write_seedBytes]
  rfl

/-- Settles O36: the run writes what its commands write, and `SEED_END` absorbs the last open chunk, as `PcgSeed` does. -/
theorem pcgSeedingIsPcgSeed : Obligations.PcgSeedingIsPcgSeed := by
  unfold Obligations.PcgSeedingIsPcgSeed
  intro m rest s hin hfree
  rw [runFor_seedProgram hin hfree, foldl_write_seedProgram]
  rfl

end Sys2Proof.Proofs.PcgSeeding
end

section
/-! PROOFS. O48, O49: the state update of `PCG` is a bijection without a fixed point (41_pcg.md R103, R113), and what a trailing
zero byte does to a seed (41_pcg.md R112). -/

namespace Sys2Proof.Proofs.PcgFunctions

open Sys2Proof.Machine Sys2Proof.Proofs.Commands Sys2Proof.Proofs.Mixing Sys2Proof.Proofs.PcgSeeding

/-! ### `PcgLcg` -/

theorem pcgLcg_eq (x : Word64) : pcgLcg x = x * 0x5851f42d4c957f2d#64 + 0x14057b7ef767814f#64 := by
  unfold pcgLcg
  rw [pcgM, pcgC]

theorem pcgAbsorb_eq (s c : Word64) : pcgAbsorb s c = (s + c) * 0x5851f42d4c957f2d#64 + 0x14057b7ef767814f#64 := by
  unfold pcgAbsorb
  rw [pcgM, pcgC]

theorem pcgAbsorb_zero (s : Word64) : pcgAbsorb s 0#64 = pcgLcg s := by
  rw [pcgAbsorb_eq, pcgLcg_eq, BitVec.add_zero]

theorem pcgM_mul_inverse : pcgM * 0xc097ef87329e28a5#64 = 1#64 := by decide +kernel

theorem pcgLcg_injective : Function.Injective pcgLcg := by
  intro x y h
  unfold pcgLcg at h
  have hmul : x * pcgM = y * pcgM := (BitVec.add_left_inj pcgC).1 h
  exact mul_injective_of_inverse pcgM_mul_inverse hmul

/-- The multiplier and the increment are odd, so that a state and its successor differ in parity. -/
theorem pcgLcg_ne (x : Word64) : pcgLcg x ≠ x := by
  rw [pcgLcg_eq]
  bv_omega

/-- Settles O48: `PcgLcg` is injective on a finite type, and a step changes the parity of the state. -/
theorem pcgLcgBijective : Obligations.PcgLcgBijective := by
  unfold Obligations.PcgLcgBijective
  refine ⟨Finite.injective_iff_bijective.1 pcgLcg_injective, pcgLcg_ne, fun k x y => (pcgLcg_injective.iterate k).ne,
    fun s hready => ?_⟩
  refine ⟨_, (exec_pcgNext s).trans (inPhase_of_legal ((legalIn_next _).2 hready)), ?_⟩
  rw [respond_pcg, setPcg_pcg, pcgStep_s]
  exact pcgLcg_ne s.pcg.s

/-! ### A trailing zero byte -/

theorem zeroPad_concat_zero {m : List Byte} (h : m.length % 8 ≠ 0) : zeroPad (m ++ [0x00#8]) = zeroPad m := by
  have hlen : (m ++ [0x00#8]).length = m.length + 1 := List.length_append
  have hpad : paddedLength (m.length + 1) = paddedLength m.length := by rw [paddedLength, paddedLength]; omega
  have hfill : paddedLength m.length - m.length = (paddedLength m.length - (m.length + 1)) + 1 := by
    rw [paddedLength]; omega
  rw [zeroPad, zeroPad, hlen, hpad, hfill, List.replicate_succ, List.append_assoc, List.singleton_append]

theorem pcgSeed_congr {m m' : List Byte} (h : zeroPad m = zeroPad m') : pcgSeed m = pcgSeed m' := by
  rw [pcgSeed_eq_absorbChunks, pcgSeed_eq_absorbChunks, ← zeroPad_length, ← zeroPad_length, h]

theorem pcgSeed_concat_zero_of_partial {m : List Byte} (h : m.length % 8 ≠ 0) : pcgSeed (m ++ [0x00#8]) = pcgSeed m :=
  pcgSeed_congr (zeroPad_concat_zero h)

theorem pcgSeed_concat_zero_of_whole {m : List Byte} (h : m.length % 8 = 0) :
    pcgSeed (m ++ [0x00#8]) = pcgLcg (pcgSeed m) := by
  have hlen : (m ++ [0x00#8]).length = m.length + 1 := List.length_append
  have hdiv : (m.length + 1) / 8 = m.length / 8 := by omega
  have hopen : le64 (openChunk (m ++ [0x00#8])) = 0#64 := by
    rw [openChunk_concat _ (by omega), openChunk_of_whole h]
    exact (le64_append_zeros [] 1).trans le64_nil
  rw [pcgSeed_of_partial (by omega), hopen, pcgAbsorb_zero, hlen, hdiv, absorbChunks_append _ (by omega), pcgSeed_of_whole h]

/-- The first zero byte starts a chunk and the other seven cannot be seen. -/
theorem pcgSeed_zeros {k : Nat} (hk : k < 8) : pcgSeed (List.replicate (k + 1) 0x00#8) = pcgLcg (pcgSeed []) := by
  induction k with
  | zero => exact pcgSeed_concat_zero_of_whole (m := []) rfl
  | succ k ih =>
    rw [List.replicate_succ', pcgSeed_concat_zero_of_partial (by rw [List.length_replicate]; omega), ih (by omega)]

theorem pcgSeed_nil : pcgSeed [] = 0xcafef00dd15ea5e5#64 := by
  rw [pcgSeed_of_whole rfl]
  rfl

theorem pcgSeed_eight_zeros : pcgSeed (List.replicate 8 0x00#8) = pcgLcg 0xcafef00dd15ea5e5#64 := by
  rw [pcgSeed_zeros (k := 7) (by decide), pcgSeed_nil]

/-- Settles O49: inside the last chunk the padded sequences are equal; a zero byte that starts a chunk absorbs 0. -/
theorem pcgPadding : Obligations.PcgPadding := by
  unfold Obligations.PcgPadding
  have hone : pcgSeed [0x01#8] = 0x9fa7df8f9035c4bd#64 := by decide +kernel
  refine ⟨fun m => pcgSeed_concat_zero_of_partial, fun m h => ?_, hone, ?_, pcgSeed_eight_zeros, ?_⟩
  · rw [pcgSeed_concat_zero_of_whole h]
    exact ⟨rfl, pcgLcg_ne _⟩
  · exact (pcgSeed_concat_zero_of_partial (m := [0x01#8]) (by decide)).trans hone
  · rw [pcgSeed_eight_zeros]
    decide +kernel

end Sys2Proof.Proofs.PcgFunctions
end

section
/-! PROOFS. O13 to O17: the five commands of `PCG`, each in every phase (41_pcg.md R105 to R109). -/

namespace Sys2Proof.Proofs.PcgCommands

open Sys2Proof.Machine Sys2Proof.Proofs.Commands Sys2Proof.Proofs.Encoding Sys2Proof.Proofs.PcgFunctions

theorem respond_setPcg_eq (a : Response) (r : PcgRegs) (s : State) :
    respond a (s.setPcg r) = { s with pcg := r, responses := a :: s.responses } := rfl

theorem raise_eq (c : Status) (s : State) : raise c s = { s with responses := bareResponse c :: s.responses } := rfl

/-- Settles O13: the bytes drawn are as many as were asked for, so that the word loaded is that of all of them. -/
theorem pcgEntropyRule : Obligations.PcgEntropyRule := by
  unfold Obligations.PcgEntropyRule
  refine ⟨decode_eq_command_iff.2 rfl, fun s => ⟨fun e he => ?_, fun hfail => ?_⟩⟩
  · have hword : BitVec.ofNat 64 (leSum e 0 8) = le64 e := by
      rw [leSum_eq_leNat, slice, List.drop_zero, List.take_of_length_le (entropyReply_length he).le, le64]
    rw [exec_pcgEntropy, constructFromEntropy_bytes he, hword, pcgLoad]
    rfl
  · rw [exec_pcgEntropy, constructFromEntropy_fail hfail]
    rfl

/-- Settles O14: `SEED_START` is allowed in every phase. -/
theorem pcgSeedStartRule : Obligations.PcgSeedStartRule := by
  unfold Obligations.PcgSeedStartRule
  refine ⟨decode_eq_command_iff.2 rfl, fun s => ?_⟩
  rw [exec_pcgSeedStart, pcgStart_eq, pcgK0, respond_setPcg_eq, okResponse_eq_bare]

/-- Settles O15, by the phase and by whether the byte fills the chunk. -/
theorem pcgSeedByteRule : Obligations.PcgSeedByteRule := by
  unfold Obligations.PcgSeedByteRule
  refine fun b => ⟨decode_eq_command_iff.2 (encode_seedByte .pcg b), fun s =>
    ⟨fun hph hcnt => ?_, fun hph hcnt => ?_, fun hph => ?_⟩⟩
  · rw [exec_pcgSeedByte, inPhase_of_legal ((legalIn_seedByte _).2 hph), pcgByte_of_full hcnt, pcgAbsorb_eq, zext64, hph,
      respond_setPcg_eq, okResponse_eq_bare]
  · rw [exec_pcgSeedByte, inPhase_of_legal ((legalIn_seedByte _).2 hph), pcgByte_of_room hcnt, zext64, hph,
      respond_setPcg_eq, okResponse_eq_bare]
  · rw [exec_pcgSeedByte, inPhase_of_illegal (Bool.eq_false_iff.2 (mt (legalIn_seedByte _).1 hph)), raise_eq]

/-- Settles O16, by the phase and by whether a chunk is open. -/
theorem pcgSeedEndRule : Obligations.PcgSeedEndRule := by
  unfold Obligations.PcgSeedEndRule
  refine ⟨decode_eq_command_iff.2 rfl, fun s => ⟨fun hph hcnt => ?_, fun hph hcnt => ?_, fun hph => ?_⟩⟩
  · rw [exec_pcgSeedEnd, inPhase_of_legal ((legalIn_seedEnd _).2 hph), pcgEnd_of_partial hcnt, pcgAbsorb_eq,
      respond_setPcg_eq, okResponse_eq_bare]
  · rw [exec_pcgSeedEnd, inPhase_of_legal ((legalIn_seedEnd _).2 hph), pcgEnd_of_whole hcnt,
      respond_setPcg_eq, okResponse_eq_bare]
  · rw [exec_pcgSeedEnd, inPhase_of_illegal (Bool.eq_false_iff.2 (mt (legalIn_seedEnd _).1 hph)), raise_eq]

/-- `PcgOut` by the library's rotation and the bit fields of 41_pcg.md R104. -/
theorem pcgOut_eq (old : Word64) :
    pcgOut old = ((old ^^^ (old >>> 18)).extractLsb' 27 32).rotateRight (old.extractLsb' 59 5).toNat := by
  have hrot : (old >>> 59).toNat = (old.extractLsb' 59 5).toNat := by
    rw [BitVec.toNat_ushiftRight, BitVec.extractLsb'_toNat, Nat.mod_eq_of_lt]
    rw [Nat.shiftRight_eq_div_pow]
    omega
  have hword (x : Word64) : (x >>> 27).setWidth 32 = x.extractLsb' 27 32 := by
    apply BitVec.eq_of_toNat_eq
    rw [BitVec.toNat_setWidth, BitVec.toNat_ushiftRight, BitVec.extractLsb'_toNat]
  rw [pcgOut, hrot, hword, rotr_eq_rotateRight _ (old.extractLsb' 59 5).isLt]

/-- Settles O17, by the phase; the update and the output are the functions written out. -/
theorem pcgNextRule : Obligations.PcgNextRule := by
  unfold Obligations.PcgNextRule
  refine ⟨decode_eq_command_iff.2 rfl, fun s => ⟨fun hph => ?_, fun hph => ?_⟩⟩
  · rw [exec_pcgNext, inPhase_of_legal ((legalIn_next _).2 hph), ← pcgOut_eq, ← pcgLcg_eq, pcgStep, pcgResponse,
      nextResponse, word32_zext_toNat, respond_setPcg_eq]
  · rw [exec_pcgNext, inPhase_of_illegal (Bool.eq_false_iff.2 (mt (legalIn_next _).1 hph)), raise_eq]

end Sys2Proof.Proofs.PcgCommands
end

section
/-! PROOFS. O37, O39: seeding an xor-shift-rotate engine byte by byte computes its seed function (42_xsr256.md R120, R128;
43_xsr128.md R140), of the zero-padded sequence where `XSR_SEED_PADDED` is true (92_eei_decisions.md D11). The registers after some
bytes are a function of the bytes: `h` is their hash and `cnt`, where it runs, their number modulo 8. -/

namespace Sys2Proof.Proofs.XsrSeeding

open Sys2Proof.Machine Sys2Proof.Proofs.Commands Sys2Proof.Proofs.Seeding

/-! ### The register functions as records -/

theorem x256Start_eq (p : Bool) (r : X256Regs) :
    x256Start p r = { r with h := fnvBasis, cnt := countByte p r.cnt 0#3, ph := .seeding } := by rw [x256Start]

theorem x256Byte_eq (p : Bool) (b : Byte) (r : X256Regs) :
    x256Byte p b r = { r with h := fnv1aStep r.h b, cnt := countByte p r.cnt (r.cnt + 1#3) } := by rw [x256Byte]

theorem x128Start_eq (p : Bool) (r : X128Regs) :
    x128Start p r = { r with h := fnvBasis, cnt := countByte p r.cnt 0#3, ph := .seeding } := by rw [x128Start]

theorem x128Byte_eq (p : Bool) (b : Byte) (r : X128Regs) :
    x128Byte p b r = { r with h := fnv1aStep r.h b, cnt := countByte p r.cnt (r.cnt + 1#3) } := by rw [x128Byte]

/-- The counters of the four rounds in the closed form of 40_seed_and_shared_functions.md R85. -/
theorem x256Expand_multiples (h : Word64) :
    x256Expand h = (⟨mix64 (h + 1#64 * gamma), mix64 (h + 2#64 * gamma), mix64 (h + 3#64 * gamma), mix64 (h + 4#64 * gamma)⟩,
      h + 4#64 * gamma) := by
  rw [x256Expand_eq]
  generalize gamma = g
  have h2 : h + g + g = h + 2#64 * g := by bv_omega
  have h3 : h + 2#64 * g + g = h + 3#64 * g := by bv_omega
  have h4 : h + 3#64 * g + g = h + 4#64 * g := by bv_omega
  rw [BitVec.one_mul, h2, h3, h4]

/-- The counters of the two rounds in the closed form of 40_seed_and_shared_functions.md R85. -/
theorem x128Expand_multiples (h : Word64) :
    x128Expand h = (⟨lo32 (mix64 (h + 1#64 * gamma)), hi32 (mix64 (h + 1#64 * gamma)), lo32 (mix64 (h + 2#64 * gamma)),
      hi32 (mix64 (h + 2#64 * gamma))⟩, h + 2#64 * gamma) := by
  rw [x128Expand_eq]
  generalize gamma = g
  have h2 : h + g + g = h + 2#64 * g := by bv_omega
  rw [BitVec.one_mul, h2]

theorem x256End_eq (p : Bool) (r : X256Regs) :
    x256End p r = { r with
      st := (x256Expand (finishHash p r.cnt r.h)).1
      h := finishHash p r.cnt r.h + 4#64 * gamma
      ph := .ready } := by
  rw [x256End, x256Expand_multiples]

theorem x128End_eq (p : Bool) (r : X128Regs) :
    x128End p r = { r with
      st := (x128Expand (finishHash p r.cnt r.h)).1
      h := finishHash p r.cnt r.h + 2#64 * gamma
      ph := .ready } := by
  rw [x128End, x128Expand_multiples]

/-! ### The hash of the bytes received -/

theorem fnv1a64_concat (m : List Byte) (b : Byte) : fnv1a64 (m ++ [b]) = fnv1aStep (fnv1a64 m) b := by
  rw [fnv1a64, List.foldl_concat, fnv1a64]

/-- The byte counter after the bytes of a sequence. -/
def countOf (p : Bool) (old : BitVec 3) (m : List Byte) : BitVec 3 := countByte p old (BitVec.ofNat 3 m.length)

theorem countOf_false (old : BitVec 3) (m : List Byte) : countOf false old m = old := rfl

theorem hashedSeed_false (m : List Byte) : hashedSeed false m = m := rfl

theorem countOf_concat (p : Bool) (old : BitVec 3) (m : List Byte) (b : Byte) :
    countOf p old (m ++ [b]) = countByte p (countOf p old m) (countOf p old m + 1#3) := by
  rw [countOf, countOf, List.length_append, List.length_singleton, BitVec.ofNat_add]
  cases p with
  | false => rfl
  | true => rfl

/-- The counter tells how many zero bytes fill the last chunk. -/
theorem zeroPad_eq_append (m : List Byte) :
    zeroPad m = m ++ List.replicate ((8 - (BitVec.ofNat 3 m.length).toNat) % 8) 0x00#8 := by
  have hfill : paddedLength m.length - m.length = (8 - m.length % 2 ^ 3) % 8 := by rw [paddedLength]; omega
  rw [zeroPad, hfill, BitVec.toNat_ofNat]

/-- `SEED_END` completes the hash of the seed that is to be hashed. -/
theorem finishHash_countOf (p : Bool) (old : BitVec 3) (m : List Byte) :
    finishHash p (countOf p old m) (fnv1a64 m) = fnv1a64 (hashedSeed p m) := by
  cases p with
  | false => rfl
  | true =>
    show fnv1aZeros _ (fnv1a64 m) = fnv1a64 (zeroPad m)
    rw [zeroPad_eq_append, fnv1a64, fnv1a64, List.foldl_append]
    rfl

/-! ### Seeding `X256` -/

/-- The `X256` registers in phase `SEEDING` after the bytes of `m`. -/
def x256SeedingRegs (p : Bool) (r : X256Regs) (m : List Byte) : X256Regs where
  st := r.st
  h := fnv1a64 m
  cnt := countOf p r.cnt m
  ph := .seeding

/-- The `X256` registers constructed from the seed `m`. -/
def x256SeededRegs (p : Bool) (r : X256Regs) (m : List Byte) : X256Regs where
  st := x256Seed (hashedSeed p m)
  h := fnv1a64 (hashedSeed p m) + 4#64 * gamma
  cnt := countOf p r.cnt m
  ph := .ready

theorem foldl_x256Byte (p : Bool) (r : X256Regs) (m : List Byte) :
    m.foldl (fun r b => x256Byte p b r) (x256Start p r) = x256SeedingRegs p r m := by
  induction m using List.reverseRecOn with
  | nil => exact x256Start_eq p r
  | append_singleton m b ih =>
    rw [List.foldl_concat, ih, x256Byte_eq, x256SeedingRegs, x256SeedingRegs, fnv1a64_concat, countOf_concat]

theorem x256End_seedingRegs (p : Bool) (r : X256Regs) (m : List Byte) :
    x256End p (x256SeedingRegs p r m) = x256SeededRegs p r m := by
  rw [x256End_eq, x256SeedingRegs, finishHash_countOf, x256SeededRegs, x256Seed]

theorem write_x256SeedStart (s : State) :
    write s (instrOf .x256 .seedStart 0x00#8) = s.setX256 (x256Start s.params.xsrSeedPadded s.x256) := rfl

theorem write_x256SeedByte (b : Byte) (s : State) :
    write s (instrOf .x256 .seedByte b) = s.setX256 (x256Byte s.params.xsrSeedPadded b s.x256) := rfl

theorem write_x256SeedEnd (s : State) :
    write s (instrOf .x256 .seedEnd 0x00#8) = s.setX256 (x256End s.params.xsrSeedPadded s.x256) := rfl

theorem setX256_setX256 (a b : X256Regs) (s : State) : (s.setX256 a).setX256 b = s.setX256 b := rfl

theorem foldl_write_x256SeedBytes (m : List Byte) (s : State) :
    (m.map (instrOf .x256 .seedByte)).foldl write s =
      s.setX256 (m.foldl (fun r b => x256Byte s.params.xsrSeedPadded b r) s.x256) := by
  induction m generalizing s with
  | nil => rfl
  | cons b m ih =>
    rw [List.map_cons, List.foldl_cons, ih, write_x256SeedByte, setX256_params, setX256_x256, setX256_setX256, List.foldl_cons]

theorem foldl_write_x256SeedProgram (m : List Byte) (s : State) :
    (seedProgram .x256 m).foldl write s = s.setX256 (x256SeededRegs s.params.xsrSeedPadded s.x256 m) := by
  rw [seedProgram, List.foldl_cons, List.foldl_concat, write_x256SeedStart, foldl_write_x256SeedBytes, setX256_params,
    setX256_x256, setX256_setX256, foldl_x256Byte, write_x256SeedEnd, setX256_params, setX256_x256, setX256_setX256,
    x256End_seedingRegs]

/-! ### Seeding `X128` -/

/-- The `X128` registers in phase `SEEDING` after the bytes of `m`. -/
def x128SeedingRegs (p : Bool) (r : X128Regs) (m : List Byte) : X128Regs where
  st := r.st
  h := fnv1a64 m
  cnt := countOf p r.cnt m
  ph := .seeding

/-- The `X128` registers constructed from the seed `m`. -/
def x128SeededRegs (p : Bool) (r : X128Regs) (m : List Byte) : X128Regs where
  st := x128Seed (hashedSeed p m)
  h := fnv1a64 (hashedSeed p m) + 2#64 * gamma
  cnt := countOf p r.cnt m
  ph := .ready

theorem foldl_x128Byte (p : Bool) (r : X128Regs) (m : List Byte) :
    m.foldl (fun r b => x128Byte p b r) (x128Start p r) = x128SeedingRegs p r m := by
  induction m using List.reverseRecOn with
  | nil => exact x128Start_eq p r
  | append_singleton m b ih =>
    rw [List.foldl_concat, ih, x128Byte_eq, x128SeedingRegs, x128SeedingRegs, fnv1a64_concat, countOf_concat]

theorem x128End_seedingRegs (p : Bool) (r : X128Regs) (m : List Byte) :
    x128End p (x128SeedingRegs p r m) = x128SeededRegs p r m := by
  rw [x128End_eq, x128SeedingRegs, finishHash_countOf, x128SeededRegs, x128Seed]

theorem write_x128SeedStart (s : State) :
    write s (instrOf .x128 .seedStart 0x00#8) = s.setX128 (x128Start s.params.xsrSeedPadded s.x128) := rfl

theorem write_x128SeedByte (b : Byte) (s : State) :
    write s (instrOf .x128 .seedByte b) = s.setX128 (x128Byte s.params.xsrSeedPadded b s.x128) := rfl

theorem write_x128SeedEnd (s : State) :
    write s (instrOf .x128 .seedEnd 0x00#8) = s.setX128 (x128End s.params.xsrSeedPadded s.x128) := rfl

theorem setX128_setX128 (a b : X128Regs) (s : State) : (s.setX128 a).setX128 b = s.setX128 b := rfl

theorem foldl_write_x128SeedBytes (m : List Byte) (s : State) :
    (m.map (instrOf .x128 .seedByte)).foldl write s =
      s.setX128 (m.foldl (fun r b => x128Byte s.params.xsrSeedPadded b r) s.x128) := by
  induction m generalizing s with
  | nil => rfl
  | cons b m ih =>
    rw [List.map_cons, List.foldl_cons, ih, write_x128SeedByte, setX128_params, setX128_x128, setX128_setX128, List.foldl_cons]

theorem foldl_write_x128SeedProgram (m : List Byte) (s : State) :
    (seedProgram .x128 m).foldl write s = s.setX128 (x128SeededRegs s.params.xsrSeedPadded s.x128 m) := by
  rw [seedProgram, List.foldl_cons, List.foldl_concat, write_x128SeedStart, foldl_write_x128SeedBytes, setX128_params,
    setX128_x128, setX128_setX128, foldl_x128Byte, write_x128SeedEnd, setX128_params, setX128_x128, setX128_setX128,
    x128End_seedingRegs]

/-! ### The whole run -/

theorem setX256_setInputs_answered (r : X256Regs) (l : List Input) (given : List Response) (s : State) :
    { (s.setInputs l).setX256 r with responses := given } = { s with x256 := r, inputs := l, responses := given } := rfl

/-- Settles O37: the run writes what its commands write, and without padding the bytes hashed are those of the seed. -/
theorem x256SeedingIsX256Seed : Obligations.X256SeedingIsX256Seed := by
  unfold Obligations.X256SeedingIsX256Seed
  intro m rest s hin hfree hpadded
  rw [runFor_seedProgram hin hfree, foldl_write_x256SeedProgram, setInputs_params, setInputs_x256, hpadded, x256SeededRegs,
    hashedSeed_false, countOf_false, gamma, setX256_setInputs_answered]

/-- Settles O39: the run writes what its commands write, and with padding the bytes hashed are those of the padded seed. -/
theorem paddedSeedingHashesPaddedSeed : Obligations.PaddedSeedingHashesPaddedSeed := by
  unfold Obligations.PaddedSeedingHashesPaddedSeed
  intro m rest s hfree hpadded
  refine ⟨fun hin => ⟨_, runFor_seedProgram hin hfree, ?_, ?_, rfl⟩,
    fun hin => ⟨_, runFor_seedProgram hin hfree, ?_, ?_, rfl⟩⟩
  · rw [foldl_write_x256SeedProgram, setInputs_params, hpadded]; rfl
  · rw [foldl_write_x256SeedProgram]; rfl
  · rw [foldl_write_x128SeedProgram, setInputs_params, hpadded]; rfl
  · rw [foldl_write_x128SeedProgram]; rfl

end Sys2Proof.Proofs.XsrSeeding
end

section
/-! PROOFS. O52: the state update of the xor-shift-rotate engines, at any width: it is linear over xor and only the all-zero state
goes to all-zero, so that it is invertible (42_xsr256.md R122, R129). -/

namespace Sys2Proof.Proofs.XsrUpdate

open Sys2Proof.Machine

/-! ### Shifts and rotations of words -/

theorem rotateLeft_xor {w : Nat} (x y : BitVec w) (r : Nat) :
    (x ^^^ y).rotateLeft r = x.rotateLeft r ^^^ y.rotateLeft r := by
  apply BitVec.eq_of_getLsbD_eq
  intro i _
  simp only [BitVec.getLsbD_xor, BitVec.getLsbD_rotateLeft]
  cases decide (i < r % w) with
  | true => rfl
  | false => exact Bool.and_xor_distrib_left _ _ _

/-- Bit `j` of a word is bit `j + r`, or `j + r - w`, of the rotated word. -/
theorem rotateLeft_eq_zero_iff {w : Nat} {x : BitVec w} {r : Nat} : x.rotateLeft r = 0#w ↔ x = 0#w := by
  constructor
  · intro h
    apply BitVec.eq_of_getLsbD_eq
    intro j hj
    have hr : r % w < w := Nat.mod_lt _ (by omega)
    have hbit (i : Nat) : (x.rotateLeft r).getLsbD i = false := by rw [h, BitVec.getLsbD_zero]
    simp only [BitVec.getLsbD_rotateLeft] at hbit
    rw [BitVec.getLsbD_zero]
    by_cases hroom : j + r % w < w
    · simpa [hroom] using hbit (j + r % w)
    · have hlow : j + r % w - w < r % w := by omega
      have hj : w - r % w + (j + r % w - w) = j := by omega
      simpa [hlow, hj] using hbit (j + r % w - w)
  · rintro rfl
    simp [BitVec.rotateLeft_def]

/-- A word that is its own left shift has its lowest bits 0, and then the bits above them. -/
theorem eq_zero_of_eq_shiftLeft {w k : Nat} {x : BitVec w} (hk : k ≠ 0) (h : x = x <<< k) : x = 0#w := by
  apply BitVec.eq_of_getLsbD_eq
  intro i
  induction i using Nat.strongRecOn with
  | ind i ih =>
    intro hi
    rw [h, BitVec.getLsbD_shiftLeft, BitVec.getLsbD_zero]
    by_cases hlow : i < k
    · simp [hlow]
    · rw [ih (i - k) (by omega) (by omega), BitVec.getLsbD_zero, Bool.and_false]

/-! ### The update in its parallel form, at any width -/

/-- The word-by-word xor of two states. -/
def xorWords {w : Nat} (a b : Quad w) : Quad w := ⟨a.s0 ^^^ b.s0, a.s1 ^^^ b.s1, a.s2 ^^^ b.s2, a.s3 ^^^ b.s3⟩

/-- The all-zero state. -/
def zeroWords (w : Nat) : Quad w := ⟨0#w, 0#w, 0#w, 0#w⟩

/-- The update with shift `k` and rotation `r` (42_xsr256.md R122, 43_xsr128.md R142). -/
def parallelUpdate {w : Nat} (k r : Nat) (q : Quad w) : Quad w :=
  ⟨q.s0 ^^^ q.s1 ^^^ q.s3, q.s0 ^^^ q.s1 ^^^ q.s2, q.s0 ^^^ q.s2 ^^^ (q.s1 <<< k), (q.s1 ^^^ q.s3).rotateLeft r⟩

theorem x256Update_eq_parallelUpdate : x256Update = parallelUpdate 17 45 := funext x256Update_parallel

theorem x128Update_eq_parallelUpdate : x128Update = parallelUpdate 9 11 := funext x128Update_parallel

theorem xorWords_eq_zero_iff {w : Nat} {a b : Quad w} : xorWords a b = zeroWords w ↔ a = b := by
  cases a; cases b
  simp only [xorWords, zeroWords, Quad.mk.injEq, BitVec.xor_eq_zero_iff]

theorem parallelUpdate_xorWords {w : Nat} (k r : Nat) (a b : Quad w) :
    parallelUpdate k r (xorWords a b) = xorWords (parallelUpdate k r a) (parallelUpdate k r b) := by
  refine quad_eq ?_ ?_ ?_ ?_
  · simp only [parallelUpdate, xorWords]; ac_rfl
  · simp only [parallelUpdate, xorWords]; ac_rfl
  · simp only [parallelUpdate, xorWords, BitVec.shiftLeft_xor_distrib]; ac_rfl
  · simp only [parallelUpdate, xorWords, ← rotateLeft_xor]; congr 1; ac_rfl

/-- The new `s3` gives `s1 = s3`, then the new `s0` gives `s0 = 0`, the new `s1` gives `s1 = s2`, and the new `s2` that `s1` is its
own left shift. -/
theorem parallelUpdate_eq_zero_iff {w k : Nat} (hk : k ≠ 0) (r : Nat) {q : Quad w} :
    parallelUpdate k r q = zeroWords w ↔ q = zeroWords w := by
  obtain ⟨s0, s1, s2, s3⟩ := q
  simp only [parallelUpdate, zeroWords, Quad.mk.injEq, rotateLeft_eq_zero_iff, BitVec.xor_eq_zero_iff]
  constructor
  · rintro ⟨h0, h1, h2, rfl⟩
    obtain rfl : s0 = 0#w := by simpa using h0
    rw [BitVec.zero_xor] at h1 h2
    have hs1 : s1 = 0#w := eq_zero_of_eq_shiftLeft hk (h1.trans h2)
    exact ⟨rfl, hs1, h1 ▸ hs1, hs1⟩
  · rintro ⟨rfl, rfl, rfl, rfl⟩
    simp

/-- States with one image differ by a state that goes to all-zero. -/
theorem parallelUpdate_injective {w k : Nat} (hk : k ≠ 0) (r : Nat) :
    Function.Injective (parallelUpdate k r : Quad w → Quad w) := by
  intro a b h
  rwa [← xorWords_eq_zero_iff, ← parallelUpdate_eq_zero_iff hk r, parallelUpdate_xorWords, xorWords_eq_zero_iff]

/-- The words of a state as a tuple. -/
def wordsOf {w : Nat} (q : Quad w) : BitVec w × BitVec w × BitVec w × BitVec w := (q.s0, q.s1, q.s2, q.s3)

theorem wordsOf_injective {w : Nat} : Function.Injective (wordsOf (w := w)) := by
  rintro ⟨_, _, _, _⟩ ⟨_, _, _, _⟩ h
  simpa [wordsOf] using h

theorem finite_quad (w : Nat) : Finite (Quad w) := Finite.of_injective wordsOf wordsOf_injective

/-- The states of an engine are finitely many, so that injectivity is enough. -/
theorem parallelUpdate_bijective {w k : Nat} (hk : k ≠ 0) (r : Nat) :
    Function.Bijective (parallelUpdate k r : Quad w → Quad w) :=
  have := finite_quad w
  Finite.injective_iff_bijective.1 (parallelUpdate_injective hk r)

/-- Settles O52: the update is the parallel one, which is linear and injective at any width. -/
theorem x256UpdateLinear : Obligations.X256UpdateLinear := by
  unfold Obligations.X256UpdateLinear
  rw [x256Update_eq_parallelUpdate]
  exact ⟨parallelUpdate_xorWords 17 45, parallelUpdate_bijective (by decide) 45⟩

end Sys2Proof.Proofs.XsrUpdate
end

section
/-! PROOFS. O18 to O22, O28: the five commands of `X256`, each in every phase (42_xsr256.md R123 to R127), and its seed commands
where `XSR_SEED_PADDED` is true (92_eei_decisions.md D11). -/

namespace Sys2Proof.Proofs.X256Commands

open Sys2Proof.Machine Sys2Proof.Proofs.Commands Sys2Proof.Proofs.Encoding Sys2Proof.Proofs.PcgCommands
open Sys2Proof.Proofs.Streams Sys2Proof.Proofs.XsrSeeding

/-! ### What a command answers, by the phase -/

theorem respond_setX256_eq (a : Response) (r : X256Regs) (s : State) :
    respond a (s.setX256 r) = { s with x256 := r, responses := a :: s.responses } := rfl

theorem exec_x256SeedStart_eq (s : State) :
    exec .x256SeedStart s = .next { s with
      x256 := { s.x256 with
        h := 0xcbf29ce484222325#64, cnt := countByte s.params.xsrSeedPadded s.x256.cnt 0#3, ph := .seeding }
      responses := bareResponse .ok :: s.responses } := by
  rw [exec_x256SeedStart, x256Start_eq, fnvBasis, respond_setX256_eq, okResponse_eq_bare]

theorem exec_x256SeedByte_of_seeding {s : State} (b : Byte) (h : s.x256.ph = .seeding) :
    exec (.x256SeedByte b) s = .next { s with
      x256 := { s.x256 with
        h := (s.x256.h ^^^ b.setWidth 64) * 0x100000001b3#64
        cnt := countByte s.params.xsrSeedPadded s.x256.cnt (s.x256.cnt + 1#3) }
      responses := bareResponse .ok :: s.responses } := by
  rw [exec_x256SeedByte, inPhase_of_legal ((legalIn_seedByte _).2 h), x256Byte_eq, fnv1aStep, zext64, fnvPrime,
    respond_setX256_eq, okResponse_eq_bare]

theorem exec_x256SeedByte_of_ne {s : State} (b : Byte) (h : s.x256.ph ≠ .seeding) :
    exec (.x256SeedByte b) s = .next { s with responses := bareResponse .badPhase :: s.responses } := by
  rw [exec_x256SeedByte, inPhase_of_illegal (Bool.eq_false_iff.2 (mt (legalIn_seedByte _).1 h)), raise_eq]

/-- The state words from the completed hash `h`, in the closed form of 40_seed_and_shared_functions.md R85. -/
theorem exec_x256SeedEnd_of_seeding {s : State} {h : Word64} (hph : s.x256.ph = .seeding)
    (hh : finishHash s.params.xsrSeedPadded s.x256.cnt s.x256.h = h) :
    exec .x256SeedEnd s = .next { s with
      x256 := { s.x256 with
        st := ⟨mix64 (h + 1#64 * 0x9e3779b97f4a7c15#64), mix64 (h + 2#64 * 0x9e3779b97f4a7c15#64),
          mix64 (h + 3#64 * 0x9e3779b97f4a7c15#64), mix64 (h + 4#64 * 0x9e3779b97f4a7c15#64)⟩
        h := h + 4#64 * 0x9e3779b97f4a7c15#64
        ph := .ready }
      responses := bareResponse .ok :: s.responses } := by
  rw [exec_x256SeedEnd, inPhase_of_legal ((legalIn_seedEnd _).2 hph), x256End_eq, hh, x256Expand_multiples, gamma,
    respond_setX256_eq, okResponse_eq_bare]

theorem exec_x256SeedEnd_of_ne {s : State} (h : s.x256.ph ≠ .seeding) :
    exec .x256SeedEnd s = .next { s with responses := bareResponse .badPhase :: s.responses } := by
  rw [exec_x256SeedEnd, inPhase_of_illegal (Bool.eq_false_iff.2 (mt (legalIn_seedEnd _).1 h)), raise_eq]

theorem exec_x256Next_of_ready {s : State} (h : s.x256.ph = .ready) :
    exec .x256Next s = .next { s with
      x256 := { s.x256 with st := x256Update s.x256.st }
      responses := x256Response s.x256.st :: s.responses } := by
  rw [← outputStep_x256]
  exact exec_outputStep (e := .x256) h

theorem exec_x256Next_of_ne {s : State} (h : s.x256.ph ≠ .ready) :
    exec .x256Next s = .next { s with responses := bareResponse .badPhase :: s.responses } := by
  rw [exec_x256Next, inPhase_of_illegal (Bool.eq_false_iff.2 (mt (legalIn_next _).1 h)), raise_eq]

/-! ### The padding and the output as the rules write them -/

theorem countByte_false (old new : BitVec 3) : countByte false old new = old := rfl

theorem countByte_true (old new : BitVec 3) : countByte true old new = new := rfl

theorem finishHash_false (cnt : BitVec 3) (h : Word64) : finishHash false cnt h = h := rfl

theorem fnv1aZeros_eq_iterate (k : Nat) (h : Word64) : fnv1aZeros k h = (fun h => fnv1aStep h 0x00#8)^[k] h := by
  rw [fnv1aZeros]
  induction k generalizing h with
  | zero => rfl
  | succ k ih => rw [List.replicate_succ, List.foldl_cons, ih, Function.iterate_succ_apply]

theorem finishHash_true (cnt : BitVec 3) (h : Word64) :
    finishHash true cnt h = (fun h => fnv1aStep h 0x00#8)^[(8 - cnt.toNat) % 8] h := fnv1aZeros_eq_iterate _ h

theorem ushiftRight_eq_setWidth (x : Word64) : x >>> 12 = (x.extractLsb' 12 52).setWidth 64 := by
  apply BitVec.eq_of_toNat_eq
  rw [BitVec.toNat_setWidth, BitVec.extractLsb'_toNat, BitVec.toNat_ushiftRight, Nat.shiftRight_eq_div_pow]
  omega

/-! ### The rules -/

theorem quad64OfBytes_eq (e : List Byte) :
    quad64OfBytes e = ⟨BitVec.ofNat 64 (leSum e 0 8), BitVec.ofNat 64 (leSum e 8 8), BitVec.ofNat 64 (leSum e 16 8),
      BitVec.ofNat 64 (leSum e 24 8)⟩ := by
  simp only [quad64OfBytes, leSum_eq_leNat, le64]

/-- Settles O18, by the reply of the entropy source. -/
theorem x256EntropyRule : Obligations.X256EntropyRule := by
  unfold Obligations.X256EntropyRule
  refine ⟨decode_eq_command_iff.2 rfl, fun s => ⟨fun e he => ?_, fun hfail => ?_⟩⟩
  · rw [exec_x256Entropy, constructFromEntropy_bytes he, ← quad64OfBytes_eq, x256Load, okResponse_eq_bare]
    rfl
  · rw [exec_x256Entropy, constructFromEntropy_fail hfail]
    rfl

/-- Settles O19: `SEED_START` is allowed in every phase, and without padding the counter is not touched. -/
theorem x256SeedStartRule : Obligations.X256SeedStartRule := by
  unfold Obligations.X256SeedStartRule
  refine ⟨decode_eq_command_iff.2 rfl, fun s hpadded => ?_⟩
  rw [exec_x256SeedStart_eq, hpadded, countByte_false]

/-- Settles O20, by the phase. -/
theorem x256SeedByteRule : Obligations.X256SeedByteRule := by
  unfold Obligations.X256SeedByteRule
  refine fun b => ⟨decode_eq_command_iff.2 (encode_seedByte .x256 b), fun s hpadded => ⟨fun hph => ?_, fun hph => ?_⟩⟩
  · rw [exec_x256SeedByte_of_seeding b hph, hpadded, countByte_false]
  · exact exec_x256SeedByte_of_ne b hph

/-- Settles O21, by the phase; without padding the hash is complete. -/
theorem x256SeedEndRule : Obligations.X256SeedEndRule := by
  unfold Obligations.X256SeedEndRule
  refine ⟨decode_eq_command_iff.2 rfl, fun s hpadded => ⟨fun hph => ?_, fun hph => ?_⟩⟩
  · exact exec_x256SeedEnd_of_seeding hph (by rw [hpadded, finishHash_false])
  · exact exec_x256SeedEnd_of_ne hph

/-- Settles O22, by the phase; the update is the parallel one. -/
theorem x256NextRule : Obligations.X256NextRule := by
  unfold Obligations.X256NextRule
  refine ⟨decode_eq_command_iff.2 rfl, fun s => ⟨fun hph => ?_, fun hph => ?_⟩⟩
  · rw [exec_x256Next_of_ready hph, x256Update_parallel, x256Response, nextResponse, x256Mantissa, ushiftRight_eq_setWidth]
  · exact exec_x256Next_of_ne hph

/-- Settles O28: the rules by the phase, with the counter running and the hash completed by zero bytes. -/
theorem x256PaddedSeedCommands : Obligations.X256PaddedSeedCommands := by
  unfold Obligations.X256PaddedSeedCommands
  refine fun s hpadded => ⟨?_, fun hph => ⟨fun b => ?_, ?_⟩, fun hph => ⟨fun b => ?_, ?_⟩⟩
  · rw [exec_x256SeedStart_eq, hpadded, countByte_true]
  · rw [exec_x256SeedByte_of_seeding b hph, hpadded, countByte_true]
  · exact exec_x256SeedEnd_of_seeding hph (by rw [hpadded, finishHash_true])
  · exact exec_x256SeedByte_of_ne b hph
  · exact exec_x256SeedEnd_of_ne hph

end Sys2Proof.Proofs.X256Commands
end

section
/-! PROOFS. O47, O53: the source's route to the 256-bit result (42_xsr256.md R121), and the all-zero state of `X256` (R130). -/

namespace Sys2Proof.Proofs.X256Functions

open Sys2Proof.Machine Sys2Proof.Proofs.Commands Sys2Proof.Proofs.Encoding Sys2Proof.Proofs.Ownership
open Sys2Proof.Proofs.Responses Sys2Proof.Proofs.Results Sys2Proof.Proofs.Mixing Sys2Proof.Proofs.XsrSeeding
open Sys2Proof.Proofs.XsrUpdate Sys2Proof.Proofs.X256Commands

/-! ### The bit-cast route -/

theorem f64Value_exponentOne_or (f : BitVec 52) :
    f64Value (0x3ff0000000000000#64 ||| f.setWidth 64) = some (1 + (f.toNat : ℚ) / 2 ^ 52) := by
  rw [exponentOne_or_eq_append, f64Value_normal false 1023#11 f (by decide) (by decide)]
  simp

/-- Settles O47: the pattern has the mantissa field `m` and the exponent of 1.0, so that its value is `1 + m / 2^52`. -/
theorem x256BitCastRoute : Obligations.X256BitCastRoute := by
  unfold Obligations.X256BitCastRoute
  intro q
  rw [ushiftRight_eq_setWidth]
  generalize (q.s0 + q.s3).extractLsb' 12 52 = f
  intro m
  have hm : m.toNat = f.toNat := BitVec.toNat_setWidth_of_le (by decide)
  have hnonneg : (0 : ℚ) ≤ f.toNat / 2 ^ 52 := by positivity
  have hlt : (f.toNat : ℚ) / 2 ^ 52 < 1 := by
    rw [div_lt_one (by positivity)]
    exact_mod_cast f.isLt
  refine ⟨_, f64Value_exponentOne_or f, by linarith, by linarith, ?_⟩
  rw [hm, f64Value_f64Frac (le_refl 52) f.isLt, add_sub_cancel_left]

/-! ### The state words a command can leave -/

theorem x256Update_eq_zero_iff {q : Quad 64} : x256Update q = zeroWords 64 ↔ q = zeroWords 64 := by
  rw [x256Update_eq_parallelUpdate]
  exact parallelUpdate_eq_zero_iff (by decide) 45

/-- The first two words are images of distinct counters, and only one word has the image 0. -/
theorem x256Expand_ne_zero (h : Word64) : (x256Expand h).1 ≠ zeroWords 64 := by
  rw [x256Expand_multiples]
  intro hzero
  obtain ⟨h0, h1, -, -⟩ := Quad.mk.inj hzero
  have hround : 1 = 2 := round_counter_injective (by decide) (by decide) (mix64_injective (h0.trans h1.symm))
  cases hround

theorem x256Advance_st (p : Bool) (o : Operation) (b : Byte) (r : X256Regs) :
    (x256Advance p o b r).st = r.st ∨ (∃ h, (x256Advance p o b r).st = (x256Expand h).1) ∨
      (x256Advance p o b r).st = x256Update r.st := by
  cases o with
  | entropy => exact .inl rfl
  | seedStart => exact .inl (x256Start_st p r)
  | seedByte => exact .inl (x256Byte_st p b r)
  | seedEnd => exact .inr (.inl ⟨_, x256End_st p r⟩)
  | next => exact .inr (.inr (x256Step_st r))

/-- All that a command can leave in the state words of `X256`. -/
theorem exec_x256_st {i : Instr} {s t : State} (ht : exec i s = .next t) :
    t.x256.st = s.x256.st ∨ (∃ h, t.x256.st = (x256Expand h).1) ∨ t.x256.st = x256Update s.x256.st ∨
      (i = .x256Entropy ∧ ∃ d, entropyReply 32 s = .bytes d ∧ t.x256.st = quad64OfBytes d) := by
  by_cases he : .x256 = i.engine
  · by_cases hi : i.operation = .entropy
    · obtain rfl : i = .x256Entropy := by rw [← instrOf_parts i, ← he, hi]; rfl
      rw [exec_x256Entropy] at ht
      obtain ⟨d, hd, rfl⟩ | ⟨-, rfl⟩ | ⟨-, rfl⟩ := constructFromEntropy_next ht
      · exact .inr (.inr (.inr ⟨rfl, d, hd, x256Load_st d _⟩))
      · exact .inl rfl
      · exact .inl rfl
    · rw [exec_of_not_entropy hi, ← he] at ht
      obtain ⟨-, rfl⟩ | ⟨-, rfl⟩ := inPhase_next ht
      · exact (x256Advance_st _ i.operation i.imm8 s.x256).imp_right (Or.imp_right .inl)
      · exact .inl rfl
  · exact .inl (congrArg X256Regs.st (exec_sameEngine_of_ne ht he)).symm

/-! ### Entropy bytes that load the all-zero state -/

theorem eq_zero_of_leNat_eq_zero {e : List Byte} (h : leNat e = 0) : ∀ b ∈ e, b = 0x00#8 := by
  induction e with
  | nil => exact List.forall_mem_nil _
  | cons b bs ih =>
    have hb : b.toNat = 0 := by rw [leNat] at h; omega
    have hbs : leNat bs = 0 := by rw [leNat] at h; omega
    exact List.forall_mem_cons.2 ⟨BitVec.eq_of_toNat_eq hb, ih hbs⟩

theorem eq_zero_of_le64_eq_zero {e : List Byte} (hlen : e.length ≤ 8) (h : le64 e = 0#64) : ∀ b ∈ e, b = 0x00#8 := by
  have hlt : leNat e < 2 ^ 64 := (leNat_lt e).trans_le (Nat.pow_le_pow_right two_pos (by omega))
  rw [le64, ← BitVec.toNat_inj, BitVec.toNat_ofNat, Nat.mod_eq_of_lt hlt] at h
  exact eq_zero_of_leNat_eq_zero h

theorem slice_length_le (e : List Byte) (off n : Nat) : (slice e off n).length ≤ n := List.length_take_le _ _

theorem slice_add (e : List Byte) (off a b : Nat) : slice e off (a + b) = slice e off a ++ slice e (off + a) b := by
  rw [slice, slice, slice, List.take_add, List.drop_drop]

theorem eq_replicate_of_quad64OfBytes {d : List Byte} (hlen : d.length = 32) (h : quad64OfBytes d = zeroWords 64) :
    d = List.replicate 32 0x00#8 := by
  obtain ⟨h0, h1, h2, h3⟩ := Quad.mk.inj h
  have hzero {off : Nat} (h : le64 (slice d off 8) = 0#64) : ∀ b ∈ slice d off 8, b = 0x00#8 :=
    eq_zero_of_le64_eq_zero (slice_length_le d off 8) h
  have hd : d = slice d 0 8 ++ slice d 8 8 ++ slice d 16 8 ++ slice d 24 8 := by
    rw [← slice_add d 0 8 8, ← slice_add d 0 16 8, ← slice_add d 0 24 8, slice, List.drop_zero,
      List.take_of_length_le hlen.le]
  rw [List.eq_replicate_iff]
  refine ⟨hlen, ?_⟩
  rw [hd]
  simp only [List.forall_mem_append]
  exact ⟨⟨⟨hzero h0, hzero h1⟩, hzero h2⟩, hzero h3⟩

/-! ### The all-zero state -/

theorem x256Response_zero : x256Response (zeroWords 64) = bareResponse .ok := by
  have hm : x256Mantissa (zeroWords 64) = 0#64 := by rw [x256Mantissa]; rfl
  rw [x256Response, hm, nextResponse]
  exact congrArg (Response.mk .ok 0#64) (f64Frac_zero 52)

/-- Settles O53: a command reaches the all-zero state neither by an expansion nor, from another state, by an update, which leaves
the bytes of `X256.ENTROPY`. -/
theorem x256AllZero : Obligations.X256AllZero := by
  unfold Obligations.X256AllZero
  refine ⟨fun q => x256Update_eq_zero_iff, fun s hph hzero => ?_, fun m => x256Expand_ne_zero _, fun i s t ht hs hzero => ?_⟩
  · have hst : s.x256.st = zeroWords 64 := hzero
    rw [exec_x256Next_of_ready hph, hst, x256Update_eq_zero_iff.2 rfl, x256Response_zero, ← hst]
  · obtain hkept | ⟨h, hexpand⟩ | hupdate | ⟨hi, d, hd, hload⟩ := exec_x256_st ht
    · exact absurd (hkept.symm.trans hzero) hs
    · exact absurd (hexpand.symm.trans hzero) (x256Expand_ne_zero h)
    · exact absurd (x256Update_eq_zero_iff.1 (hupdate.symm.trans hzero)) hs
    · rw [hd, eq_replicate_of_quad64OfBytes (entropyReply_length hd) (hload.symm.trans hzero)]
      exact ⟨hi, rfl⟩

end Sys2Proof.Proofs.X256Functions
end

section
/-! PROOFS. O38, O56: seeding `X128` byte by byte computes `X128Seed` (43_xsr128.md R140, R148), whose words are the halves of the
first two words of `X256Seed`, low half first (20_memory.md R42). -/

namespace Sys2Proof.Proofs.X128Seeding

open Sys2Proof.Machine Sys2Proof.Proofs.Seeding Sys2Proof.Proofs.XsrSeeding

theorem setX128_setInputs_answered (r : X128Regs) (l : List Input) (given : List Response) (s : State) :
    { (s.setInputs l).setX128 r with responses := given } = { s with x128 := r, inputs := l, responses := given } := rfl

/-- Settles O38: the run writes what its commands write, and without padding the bytes hashed are those of the seed. -/
theorem x128SeedingIsX128Seed : Obligations.X128SeedingIsX128Seed := by
  unfold Obligations.X128SeedingIsX128Seed
  intro m rest s hin hfree hpadded
  rw [runFor_seedProgram hin hfree, foldl_write_x128SeedProgram, setInputs_params, setInputs_x128, hpadded, x128SeededRegs,
    hashedSeed_false, countOf_false, gamma, setX128_setInputs_answered]

/-! ### The two halves of a word -/

theorem lo32_eq_ofNat (v : Word64) : lo32 v = BitVec.ofNat 32 (v.toNat % 2 ^ 32) := by
  apply BitVec.eq_of_toNat_eq
  rw [lo32, BitVec.extractLsb'_toNat, BitVec.toNat_ofNat, Nat.shiftRight_zero, Nat.mod_mod]

theorem hi32_eq_ofNat (v : Word64) : hi32 v = BitVec.ofNat 32 (v.toNat / 2 ^ 32) := by
  apply BitVec.eq_of_toNat_eq
  rw [hi32, BitVec.extractLsb'_toNat, BitVec.toNat_ofNat, Nat.shiftRight_eq_div_pow]

theorem hi32_append_lo32 (v : Word64) : hi32 v ++ lo32 v = v := by
  rw [hi32, lo32, BitVec.extractLsb'_append_extractLsb'_eq_extractLsb' (by decide : 32 = 0 + 32),
    BitVec.extractLsb'_eq_self]

theorem eq_zero_of_halves {v : Word64} (hlo : lo32 v = 0#32) (hhi : hi32 v = 0#32) : v = 0#64 := by
  rw [← hi32_append_lo32 v, hlo, hhi, BitVec.zero_append_zero]

/-- Settles O56: both expansions start with the same two rounds. -/
theorem x128SeedFromX256Seed : Obligations.X128SeedFromX256Seed := by
  unfold Obligations.X128SeedFromX256Seed
  intro m
  rw [x128Seed, x256Seed, x128Expand_eq, x256Expand_eq]
  exact ⟨hi32_append_lo32 _, hi32_append_lo32 _⟩

end Sys2Proof.Proofs.X128Seeding
end

section
/-! PROOFS. O23 to O27, O29: the five commands of `X128`, each in every phase (43_xsr128.md R143 to R147), and its seed commands
where `XSR_SEED_PADDED` is true (92_eei_decisions.md D11). -/

namespace Sys2Proof.Proofs.X128Commands

open Sys2Proof.Machine Sys2Proof.Proofs.Commands Sys2Proof.Proofs.Encoding Sys2Proof.Proofs.PcgCommands
open Sys2Proof.Proofs.Streams Sys2Proof.Proofs.XsrSeeding Sys2Proof.Proofs.X256Commands Sys2Proof.Proofs.X128Seeding

/-! ### What a command answers, by the phase -/

theorem respond_setX128_eq (a : Response) (r : X128Regs) (s : State) :
    respond a (s.setX128 r) = { s with x128 := r, responses := a :: s.responses } := rfl

/-- The answer of every command in a phase that does not allow it (10_state.md R28). -/
theorem exec_badPhase {i : Instr} {s : State} (hi : i.operation ≠ .entropy)
    (hl : ¬ legalIn i.operation (s.phaseOf i.engine) = true) :
    exec i s = .next { s with responses := bareResponse .badPhase :: s.responses } := by
  rw [exec_of_illegal hi (Bool.eq_false_iff.2 hl), raise_eq]

theorem exec_x128SeedStart_eq (s : State) :
    exec .x128SeedStart s = .next { s with
      x128 := { s.x128 with
        h := 0xcbf29ce484222325#64, cnt := countByte s.params.xsrSeedPadded s.x128.cnt 0#3, ph := .seeding }
      responses := bareResponse .ok :: s.responses } := by
  rw [exec_x128SeedStart, x128Start_eq, fnvBasis, respond_setX128_eq, okResponse_eq_bare]

theorem exec_x128SeedByte_of_seeding {s : State} (b : Byte) (h : s.x128.ph = .seeding) :
    exec (.x128SeedByte b) s = .next { s with
      x128 := { s.x128 with
        h := (s.x128.h ^^^ b.setWidth 64) * 0x100000001b3#64
        cnt := countByte s.params.xsrSeedPadded s.x128.cnt (s.x128.cnt + 1#3) }
      responses := bareResponse .ok :: s.responses } := by
  rw [exec_x128SeedByte, inPhase_of_legal ((legalIn_seedByte _).2 h), x128Byte_eq, fnv1aStep, zext64, fnvPrime,
    respond_setX128_eq, okResponse_eq_bare]

theorem exec_x128SeedByte_of_ne {s : State} (b : Byte) (h : s.x128.ph ≠ .seeding) :
    exec (.x128SeedByte b) s = .next { s with responses := bareResponse .badPhase :: s.responses } :=
  exec_badPhase nofun (mt (legalIn_seedByte _).1 h)

/-- The state words and the counter left are those of the expansion of the completed hash `h`. -/
theorem exec_x128SeedEnd_of_seeding {s : State} {h : Word64} (hph : s.x128.ph = .seeding)
    (hh : finishHash s.params.xsrSeedPadded s.x128.cnt s.x128.h = h) :
    exec .x128SeedEnd s = .next { s with
      x128 := { s.x128 with st := (x128Expand h).1, h := (x128Expand h).2, ph := .ready }
      responses := bareResponse .ok :: s.responses } := by
  rw [exec_x128SeedEnd, inPhase_of_legal ((legalIn_seedEnd _).2 hph), x128End, hh, respond_setX128_eq, okResponse_eq_bare]

theorem exec_x128SeedEnd_of_ne {s : State} (h : s.x128.ph ≠ .seeding) :
    exec .x128SeedEnd s = .next { s with responses := bareResponse .badPhase :: s.responses } :=
  exec_badPhase nofun (mt (legalIn_seedEnd _).1 h)

theorem exec_x128Next_of_ready {s : State} (h : s.x128.ph = .ready) :
    exec .x128Next s = .next { s with
      x128 := { s.x128 with st := x128Update s.x128.st }
      responses := x128Response s.x128.st :: s.responses } := by
  rw [← outputStep_x128]
  exact exec_outputStep (e := .x128) h

theorem exec_x128Next_of_ne {s : State} (h : s.x128.ph ≠ .ready) :
    exec .x128Next s = .next { s with responses := bareResponse .badPhase :: s.responses } :=
  exec_badPhase nofun (mt (legalIn_next _).1 h)

/-! ### The rules -/

theorem quad32OfBytes_eq (e : List Byte) :
    quad32OfBytes e = ⟨BitVec.ofNat 32 (leSum e 0 4), BitVec.ofNat 32 (leSum e 4 4), BitVec.ofNat 32 (leSum e 8 4),
      BitVec.ofNat 32 (leSum e 12 4)⟩ := by
  simp only [quad32OfBytes, leSum_eq_leNat, le32]

/-- `X128Out` by the library's rotation. -/
theorem x128Out_eq (s1 : Word32) : x128Out s1 = (s1 * 5#32).rotateLeft 7 * 9#32 := by
  rw [x128Out, rotl_eq_rotateLeft _ (by decide)]

/-- Settles O23, by the reply of the entropy source. -/
theorem x128EntropyRule : Obligations.X128EntropyRule := by
  unfold Obligations.X128EntropyRule
  refine ⟨decode_eq_command_iff.2 rfl, fun s => ⟨fun e he => ?_, fun hfail => ?_⟩⟩
  · rw [exec_x128Entropy, constructFromEntropy_bytes he, ← quad32OfBytes_eq, x128Load, okResponse_eq_bare]
    rfl
  · rw [exec_x128Entropy, constructFromEntropy_fail hfail]
    rfl

/-- Settles O24: `SEED_START` is allowed in every phase, and without padding the counter is not touched. -/
theorem x128SeedStartRule : Obligations.X128SeedStartRule := by
  unfold Obligations.X128SeedStartRule
  refine ⟨decode_eq_command_iff.2 rfl, fun s hpadded => ?_⟩
  rw [exec_x128SeedStart_eq, hpadded, countByte_false]

/-- Settles O25, by the phase. -/
theorem x128SeedByteRule : Obligations.X128SeedByteRule := by
  unfold Obligations.X128SeedByteRule
  refine fun b => ⟨decode_eq_command_iff.2 (encode_seedByte .x128 b), fun s hpadded => ⟨fun hph => ?_, fun hph => ?_⟩⟩
  · rw [exec_x128SeedByte_of_seeding b hph, hpadded, countByte_false]
  · exact exec_x128SeedByte_of_ne b hph

/-- Settles O26, by the phase; without padding the hash is complete. -/
theorem x128SeedEndRule : Obligations.X128SeedEndRule := by
  unfold Obligations.X128SeedEndRule
  refine ⟨decode_eq_command_iff.2 rfl, fun s hpadded => ⟨fun hph => ?_, fun hph => ?_⟩⟩
  · have hcomplete : finishHash s.params.xsrSeedPadded s.x128.cnt s.x128.h = s.x128.h := by rw [hpadded, finishHash_false]
    simp only [exec_x128SeedEnd_of_seeding hph hcomplete, x128Expand_eq, lo32_eq_ofNat, hi32_eq_ofNat, gamma]
  · exact exec_x128SeedEnd_of_ne hph

/-- Settles O27, by the phase; the update is the parallel one. -/
theorem x128NextRule : Obligations.X128NextRule := by
  unfold Obligations.X128NextRule
  refine ⟨decode_eq_command_iff.2 rfl, fun s => ⟨fun hph => ?_, fun hph => ?_⟩⟩
  · rw [exec_x128Next_of_ready hph, x128Update_parallel, x128Response, nextResponse, word32_zext_toNat, x128Out_eq]
  · exact exec_x128Next_of_ne hph

/-- Settles O29: the rules by the phase, with the counter running and the hash completed by zero bytes. -/
theorem x128PaddedSeedCommands : Obligations.X128PaddedSeedCommands := by
  unfold Obligations.X128PaddedSeedCommands
  refine fun s hpadded => ⟨?_, fun hph => ⟨fun b => ?_, ?_⟩, fun hph => ⟨fun b => ?_, ?_⟩⟩
  · rw [exec_x128SeedStart_eq, hpadded, countByte_true]
  · rw [exec_x128SeedByte_of_seeding b hph, hpadded, countByte_true]
  · rw [exec_x128SeedEnd_of_seeding hph (by rw [hpadded, finishHash_true]), x128Expand_multiples, gamma]
    rfl
  · exact exec_x128SeedByte_of_ne b hph
  · exact exec_x128SeedEnd_of_ne hph

end Sys2Proof.Proofs.X128Commands
end

section
/-! PROOFS. O54, O55: the state update of `X128` is linear and invertible and its output function is not linear (43_xsr128.md R149);
its all-zero state (R150). -/

namespace Sys2Proof.Proofs.X128Functions

open Sys2Proof.Machine Sys2Proof.Proofs.Commands Sys2Proof.Proofs.Encoding Sys2Proof.Proofs.Ownership Sys2Proof.Proofs.Mixing
open Sys2Proof.Proofs.XsrSeeding Sys2Proof.Proofs.XsrUpdate Sys2Proof.Proofs.X256Functions Sys2Proof.Proofs.X128Seeding
open Sys2Proof.Proofs.X128Commands

/-! ### The update and the output -/

/-- The multiplications carry: 1 and 2 have the outputs 5760 and 11520, but 3 = 1 ^ 2 has 17280. -/
theorem x128Out_not_linear : ¬ ∀ a b : Word32, x128Out (a ^^^ b) = x128Out a ^^^ x128Out b := by
  intro h
  have h12 := h 1#32 2#32
  rw [x128Out_eq, x128Out_eq, x128Out_eq] at h12
  exact absurd h12 (by decide)

/-- Settles O54: the update is the parallel one, which is linear and injective at any width. -/
theorem x128UpdateLinear : Obligations.X128UpdateLinear := by
  unfold Obligations.X128UpdateLinear
  rw [x128Update_eq_parallelUpdate]
  exact ⟨parallelUpdate_xorWords 9 11, parallelUpdate_bijective (by decide) 11, x128Out_not_linear⟩

/-! ### The commands that can leave the all-zero state -/

theorem x128Update_eq_zero_iff {q : Quad 32} : x128Update q = zeroWords 32 ↔ q = zeroWords 32 := by
  rw [x128Update_eq_parallelUpdate]
  exact parallelUpdate_eq_zero_iff (by decide) 11

/-- The two rounds are images of distinct counters, and only one word has the image 0. -/
theorem x128Expand_ne_zero (h : Word64) : (x128Expand h).1 ≠ zeroWords 32 := by
  rw [x128Expand_multiples]
  intro hzero
  obtain ⟨hlo1, hhi1, hlo2, hhi2⟩ := Quad.mk.inj hzero
  have himage := (eq_zero_of_halves hlo1 hhi1).trans (eq_zero_of_halves hlo2 hhi2).symm
  have hround : 1 = 2 := round_counter_injective (by decide) (by decide) (mix64_injective himage)
  cases hround

theorem x128Advance_st_ne_zero {r : X128Regs} (p : Bool) (o : Operation) (b : Byte) (hr : r.st ≠ zeroWords 32) :
    (x128Advance p o b r).st ≠ zeroWords 32 := by
  cases o with
  | entropy => exact hr
  | seedStart => rwa [x128Advance, x128Start_st]
  | seedByte => rwa [x128Advance, x128Byte_st]
  | seedEnd => rw [x128Advance, x128End_st]; exact x128Expand_ne_zero _
  | next => rw [x128Advance, x128Step_st]; exact mt x128Update_eq_zero_iff.1 hr

theorem exec_x128_st_ne_zero {i : Instr} {s t : State} (hi : i ≠ .x128Entropy) (ht : exec i s = .next t)
    (hs : s.x128.st ≠ zeroWords 32) : t.x128.st ≠ zeroWords 32 := by
  by_cases he : .x128 = i.engine
  · have ho : i.operation ≠ .entropy := fun ho => hi (by rw [← instrOf_parts i, ← he, ho]; rfl)
    rw [exec_of_not_entropy ho, ← he] at ht
    obtain ⟨-, rfl⟩ | ⟨-, rfl⟩ := inPhase_next ht
    · exact x128Advance_st_ne_zero _ i.operation i.imm8 hs
    · exact hs
  · have hsame : s.x128 = t.x128 := exec_sameEngine_of_ne ht he
    rwa [← hsame]

/-! ### Entropy bytes that load the all-zero state -/

theorem eq_zero_of_le32_eq_zero {e : List Byte} (hlen : e.length ≤ 4) (h : le32 e = 0#32) : ∀ b ∈ e, b = 0x00#8 := by
  have hlt : leNat e < 2 ^ 32 := (leNat_lt e).trans_le (Nat.pow_le_pow_right two_pos (by omega))
  rw [le32, ← BitVec.toNat_inj, BitVec.toNat_ofNat, Nat.mod_eq_of_lt hlt] at h
  exact eq_zero_of_leNat_eq_zero h

theorem eq_replicate_of_quad32OfBytes {d : List Byte} (hlen : d.length = 16) (h : quad32OfBytes d = zeroWords 32) :
    d = List.replicate 16 0x00#8 := by
  obtain ⟨h0, h1, h2, h3⟩ := Quad.mk.inj h
  have hzero {off : Nat} (h : le32 (slice d off 4) = 0#32) : ∀ b ∈ slice d off 4, b = 0x00#8 :=
    eq_zero_of_le32_eq_zero (slice_length_le d off 4) h
  have hd : d = slice d 0 4 ++ slice d 4 4 ++ slice d 8 4 ++ slice d 12 4 := by
    rw [← slice_add d 0 4 4, ← slice_add d 0 8 4, ← slice_add d 0 12 4, slice, List.drop_zero,
      List.take_of_length_le hlen.le]
  rw [List.eq_replicate_iff]
  refine ⟨hlen, ?_⟩
  rw [hd]
  simp only [List.forall_mem_append]
  exact ⟨⟨⟨hzero h0, hzero h1⟩, hzero h2⟩, hzero h3⟩

theorem entropyReply_of_x128Entropy_zero {s t : State} (ht : exec .x128Entropy s = .next t)
    (hs : s.x128.st ≠ zeroWords 32) (hzero : t.x128.st = zeroWords 32) :
    entropyReply 16 s = .bytes (List.replicate 16 0x00#8) := by
  rw [exec_x128Entropy] at ht
  obtain ⟨d, hd, rfl⟩ | ⟨-, rfl⟩ | ⟨-, rfl⟩ := constructFromEntropy_next ht
  · have hload : quad32OfBytes d = zeroWords 32 := (x128Load_st d _).symm.trans hzero
    rw [hd, eq_replicate_of_quad32OfBytes (entropyReply_length hd) hload]
  · exact absurd hzero hs
  · exact absurd hzero hs

/-! ### The all-zero state -/

theorem x128Response_zero : x128Response (zeroWords 32) = bareResponse .ok := by
  have hout : x128Out (zeroWords 32).s1 = 0#32 := by rw [x128Out_eq]; rfl
  rw [x128Response, hout, nextResponse]
  exact congrArg (Response.mk .ok 0#64) (f64Frac_zero 32)

/-- Settles O55: a command other than `X128.ENTROPY` leaves the all-zero state only where it finds it. -/
theorem x128AllZero : Obligations.X128AllZero := by
  unfold Obligations.X128AllZero
  refine ⟨fun q => x128Update_eq_zero_iff, fun s hph hzero => ?_, fun m => x128Expand_ne_zero _, fun i s t ht hs hzero => ?_⟩
  · have hst : s.x128.st = zeroWords 32 := hzero
    rw [exec_x128Next_of_ready hph, hst, x128Update_eq_zero_iff.2 rfl, x128Response_zero, ← hst]
  · obtain rfl : i = .x128Entropy := by_contra fun hi => exec_x128_st_ne_zero hi ht hs hzero
    exact ⟨rfl, entropyReply_of_x128Entropy_zero ht hs hzero⟩

end Sys2Proof.Proofs.X128Functions
end

section
/-! PROOFS. O8, O12: a step stops only while an `ENTROPY` command waits for a source that never replies (60_exceptions.md R176), and
such a command does nothing but make its request. -/

namespace Sys2Proof.Proofs.Waiting

open Sys2Proof.Machine Sys2Proof.Proofs.Commands Sys2Proof.Proofs.Interleaving

/-- An `ENTROPY` command waits and the next input is no reset, the one thing that ends the wait. -/
def Waits (s : State) : Prop := s.entropyPending = true ∧ ∀ rest, s.inputs ≠ .reset :: rest

theorem step_of_waits {s : State} (h : Waits s) : step s = .fault .entropyNeverReplied := by
  obtain ⟨hpending, hreset⟩ := h
  match hin : s.inputs with
  | [] => rw [step_of_nil hin, acceptCommand_of_waiting hpending]
  | .command w :: rest => rw [step_of_word hin, acceptCommand_of_waiting hpending]
  | .reset :: rest => exact absurd hin (hreset rest)

theorem step_of_nil_of_free {s : State} (hin : s.inputs = []) (hfree : s.entropyPending = false) : step s = .next s := by
  rw [step_of_nil hin, acceptCommand_of_free hfree]

theorem runWord_answers (w : CmdWord) (s : State) : ∃ t, runWord w s = .next t := by
  cases hd : decode w with
  | command i =>
    obtain ⟨t, -, ht, -⟩ := exec_answers i s
    exact ⟨t, (runWord_of_command hd s).trans ht⟩
  | illegal why => exact ⟨_, runWord_of_illegal hd s⟩

theorem step_answers {s : State} (h : ¬Waits s) : ∃ t, step s = .next t := by
  have hfree (hreset : ∀ rest, s.inputs ≠ .reset :: rest) : s.entropyPending = false :=
    Bool.eq_false_iff.2 fun hpending => h ⟨hpending, hreset⟩
  match hin : s.inputs with
  | [] => exact ⟨s, step_of_nil_of_free hin (hfree (by simp [hin]))⟩
  | .command w :: rest =>
    rw [step_of_word hin, acceptCommand_of_free (hfree (by simp [hin]))]
    exact runWord_answers w _
  | .reset :: rest => exact ⟨_, step_of_reset hin⟩

/-- Settles O8: a step stops where the block waits, and answers a next state elsewhere. -/
theorem stepStopsOnlyWaiting : Obligations.StepStopsOnlyWaiting := by
  unfold Obligations.StepStopsOnlyWaiting
  intro s
  refine ⟨step_of_nil_of_free, ?_⟩
  by_cases hwaits : Waits s
  · rw [step_of_waits hwaits]
    exact ⟨nofun, fun r => ⟨fun hr => ⟨(Host.Outcome.fault.inj hr).symm, hwaits⟩, fun ⟨hr, _⟩ => hr ▸ rfl⟩⟩
  · obtain ⟨t, ht⟩ := step_answers hwaits
    rw [ht]
    exact ⟨nofun, fun r => ⟨nofun, fun ⟨_, hw⟩ => absurd hw hwaits⟩⟩

theorem exec_of_silent {i : Instr} {s : State} (hi : i.operation = .entropy)
    (hsilent : entropyReply (entropyBytes i.engine) s = .silent) : exec i s = .next (awaitReply s) := by
  rw [exec_of_entropy hi, constructFromEntropy_silent hsilent, awaitReply]

/-- Settles O12: the command makes its request and waits, and a block that waits stops. -/
theorem silentEntropyWaits : Obligations.SilentEntropyWaits := by
  unfold Obligations.SilentEntropyWaits
  intro i s hi hsilent
  have hexec := exec_of_silent hi hsilent
  refine ⟨hexec, fun t ht hreset => step_of_waits ⟨?_, hreset⟩⟩
  obtain rfl : awaitReply s = t := Host.Outcome.next.inj (hexec.symm.trans ht)
  rfl

end Sys2Proof.Proofs.Waiting
end

section
/-! PROOFS. O31: a fault changes no register, is not sticky, and touches nothing but the ports (60_exceptions.md R168). -/

namespace Sys2Proof.Proofs.Faults

open Sys2Proof.Machine Sys2Proof.Proofs.Commands Sys2Proof.Proofs.Phases

/-- A command whose response is a fault has raised it, before or after a request at the entropy port. -/
theorem exec_fault {i : Instr} {s t : State} {r : Response} (ht : exec i s = .next t)
    (hr : t.responses = r :: s.responses) (hfault : r.status ≠ .ok) :
    ∃ c, t = raise c s ∨ t = raise c (takeReply s) := by
  obtain ⟨d, -, rfl⟩ | hfail | rfl | ⟨-, rfl⟩ | hphase := exec_next ht
  · obtain rfl : okResponse = r := by simpa using hr
    exact absurd rfl hfault
  · exact ⟨_, .inr hfail⟩
  · exact absurd hr (by simp)
  · obtain rfl : output i.engine i.operation s = r := by simpa using hr
    exact absurd (output_status _ _ s) hfault
  · exact ⟨_, .inl hphase⟩

theorem runWord_fault {w : CmdWord} {s t : State} {r : Response} (ht : runWord w s = .next t)
    (hr : t.responses = r :: s.responses) (hfault : r.status ≠ .ok) :
    ∃ c, t = raise c s ∨ t = raise c (takeReply s) := by
  obtain ⟨i, -, hi⟩ | hillegal := runWord_next ht
  · exact exec_fault hi hr hfault
  · exact ⟨_, .inl hillegal⟩

/-- Settles O31: a fault is raised in the state before the command, but for the request of an `ENTROPY` command. -/
theorem faultKeepsRegisters : Obligations.FaultKeepsRegisters := by
  unfold Obligations.FaultKeepsRegisters
  intro w s t r ht hr hfault
  obtain ⟨c, rfl | rfl⟩ := runWord_fault ht hr hfault
  all_goals obtain rfl : faultResponse c = r := by simpa using hr
  · exact ⟨sameRegisters_raise c s, rfl⟩
  · exact ⟨sameRegisters_raise_takeReply c s, rfl⟩

end Sys2Proof.Proofs.Faults
end

section
/-! PROOFS. O50, O10: the states the engines get from the empty seed (70_reset_and_hazards.md R182), and the reset input (R180,
10_state.md R34), which loads them where `RESET_LOADS_DEFAULT` is true. -/

namespace Sys2Proof.Proofs.Reset

open Sys2Proof.Machine Sys2Proof.Proofs.PcgSeeding Sys2Proof.Proofs.PcgFunctions Sys2Proof.Proofs.XsrSeeding

/-! ### The default states -/

theorem x256Seed_nil :
    x256Seed [] = ⟨0xc3817c016ba4ff30#64, 0x100cdaacc0bc9316#64, 0x54c3a569ecf61b1b#64, 0x2c65920724651c72#64⟩ := by
  decide +kernel

theorem x128Seed_eq_halves (m : List Byte) :
    x128Seed m = ⟨lo32 (x256Seed m).s0, hi32 (x256Seed m).s0, lo32 (x256Seed m).s1, hi32 (x256Seed m).s1⟩ := by
  rw [x128Seed, x256Seed, x128Expand_eq, x256Expand_eq]

theorem x128Seed_nil : x128Seed [] = ⟨0x6ba4ff30#32, 0xc3817c01#32, 0xc0bc9316#32, 0x100cdaac#32⟩ := by
  rw [x128Seed_eq_halves, x256Seed_nil]
  decide

/-- Settles O50: the empty seed has no chunk to absorb, and the states of the xor-shift-rotate engines are one expansion. -/
theorem defaultStates : Obligations.DefaultStates := by
  unfold Obligations.DefaultStates
  exact ⟨pcgSeed_nil, x256Seed_nil, x128Seed_nil⟩

/-! ### The registers after a reset that loads the default states -/

/-- The empty seed needs no padding. -/
theorem hashedSeed_nil (p : Bool) : hashedSeed p [] = [] := by
  cases p with
  | false => rfl
  | true => exact zeroPad_of_whole rfl

theorem pcgAfterReset_of_default {p : Params} (h : p.resetLoadsDefault = true) (k : Nat) :
    pcgAfterReset p k = { s := pcgSeed [], acc := 0#64, cnt := 0#3, ph := .ready } := by
  rw [pcgAfterReset, if_pos h, pcgStart_eq_seedingRegs, pcgEnd_seedingRegs]

theorem x256AfterReset_of_default {p : Params} (h : p.resetLoadsDefault = true) (k : Nat) :
    x256AfterReset p k = x256SeededRegs p.xsrSeedPadded (x256Unspecified k) [] := by
  rw [x256AfterReset, if_pos h, ← x256End_seedingRegs, ← foldl_x256Byte, List.foldl_nil]

theorem x128AfterReset_of_default {p : Params} (h : p.resetLoadsDefault = true) (k : Nat) :
    x128AfterReset p k = x128SeededRegs p.xsrSeedPadded (x128Unspecified k) [] := by
  rw [x128AfterReset, if_pos h, ← x128End_seedingRegs, ← foldl_x128Byte, List.foldl_nil]

/-! ### The reset input -/

theorem phaseOf_hardReset (s : State) (e : Engine) :
    (hardReset s).phaseOf e = if s.params.resetLoadsDefault then .ready else .idle := by
  cases e with
  | pcg => exact pcgAfterReset_ph _ _
  | x256 => exact x256AfterReset_ph _ _
  | x128 => exact x128AfterReset_ph _ _

theorem hardReset_of_default {s : State} (h : s.params.resetLoadsDefault = true) :
    (hardReset s).pcg.s = pcgSeed [] ∧ (hardReset s).x256.st = x256Seed [] ∧ (hardReset s).x128.st = x128Seed [] := by
  rw [hardReset_pcg, hardReset_x256, hardReset_x128, pcgAfterReset_of_default h, x256AfterReset_of_default h,
    x128AfterReset_of_default h, x256SeededRegs, x128SeededRegs, hashedSeed_nil]
  exact ⟨rfl, rfl, rfl⟩

/-- Nothing of the old registers survives: those after a reset are a function of the parameters and the reset count. -/
theorem sameRegisters_hardReset {s t : State} (hparams : s.params = t.params) (hresets : s.resets = t.resets) :
    sameRegisters (hardReset s) (hardReset t) := by
  intro e
  cases e with
  | pcg => exact congrArg₂ pcgAfterReset hparams hresets
  | x256 => exact congrArg₂ x256AfterReset hparams hresets
  | x128 => exact congrArg₂ x128AfterReset hparams hresets

/-- Settles O10: the step is `hardReset`, whose phases go by `RESET_LOADS_DEFAULT` and whose default states are those of the empty
seed. -/
theorem resetInput : Obligations.ResetInput := by
  unfold Obligations.ResetInput
  refine ⟨fun s rest hin => ⟨_, step_of_reset hin, rfl, rfl, rfl, rfl, fun hidle e => ?_, fun hdefault => ⟨fun e => ?_, ?_⟩⟩,
    fun s s' t t' rest rest' hin hin' hparams hresets ht ht' => ?_⟩
  · rw [phaseOf_hardReset, setInputs_params, hidle, if_neg Bool.false_ne_true]
  · rw [phaseOf_hardReset, setInputs_params, if_pos hdefault]
  · rw [← pcgSeed_nil, ← x256Seed_nil, ← x128Seed_nil]
    exact hardReset_of_default hdefault
  · rw [step_of_reset hin] at ht
    rw [step_of_reset hin'] at ht'
    obtain rfl := Host.Outcome.next.inj ht
    obtain rfl := Host.Outcome.next.inj ht'
    exact sameRegisters_hardReset hparams hresets

end Sys2Proof.Proofs.Reset
end
